-- ==== Sys2Proof/Word.lean ====
section
/-! DEFINITION. The word types of the HPB: bytes of IBUF and CID, and 32-bit bus and command words (spec/00_scope.md R8, R9). -/
namespace Sys2Proof

/-- A byte of IBUF, of the CID buffer or of the bit cache. -/
abbrev Byte := BitVec 8

/-- A 32-bit word: a command word, a register as the host sees it, the bus data. -/
abbrev Word := BitVec 32

/-- A byte offset on the host bus, `addr[16:0]` (D3, R44). -/
abbrev Offset := BitVec 17

end Sys2Proof
end

