-- ==== Sys2Proof/Config.lean ====
section
/-! DEFINITION. What the spec leaves to one block or leaves open: the OPEN parameter IBUF_BYTES (R7, D9) and the
values the spec calls unspecified (R49, R152). Each is a constant without a body, so no proof can see its value. -/
namespace Sys2Proof.Config

/-- IBUF_BYTES less 1: R7 bounds IBUF_BYTES by 1 and 65535 (log entry 3). -/
opaque ibufBytesLessOne : Fin 65535

/-- IBUF_BYTES of this block (R7). -/
def ibufBytes : Nat := ibufBytesLessOne.val + 1

/-- The byte an observation of an IBUF byte returns that the host has not written since reset (R49, I4), at each
value of the counter `State.draws` (log entries 2 and 6). -/
opaque freeByte : Nat → Byte

/-- The word a host read made while BUSY = 1 returns where R152 says unspecified (log entries 2 and 8). -/
opaque freeWord : Nat → Word

end Sys2Proof.Config
end

