-- ==== Sys2Proof/Machine/State.lean ====
section
/-! DEFINITION. The state of the HPB as plain data (spec/10_state.md R11-R49), the reasons a step can stop, and the
state after reset (R47, R145). -/
namespace Sys2Proof.Machine

/-- IBUF's written bytes: (index, byte) pairs, indices strictly rising. An index that is not listed has not been
written by the host since reset, and reads as no value of its own (R49; log entry 6). -/
abbrev Memory := List Host.Cell

/-- The canonical form of `Memory`: indices strictly rising. (An unlisted index reads as no value, so no entry can
equal what an unlisted index reads as.) -/
def Memory.wf : Memory → Bool
  | [] => true
  | [_] => true
  | (a, _) :: (b, v) :: rest => decide (a < b) && Memory.wf ((b, v) :: rest)

/-- STATUS.ERR (R20, R125): codes 4 to 15 do not exist. -/
inductive ErrCode where
  | none
  | bufferExhausted
  | malformedExpGolombCode
  | illegalCommand
  deriving DecidableEq, Repr

/-- One access of the host on its bus (R51), with its width in bits. -/
inductive Access where
  | read (width : Nat) (offset : Offset)
  | write (width : Nat) (offset : Offset) (data : Word)
  deriving DecidableEq, Repr

/-- What can happen next at the block's border: a bus access, a change of the level of `rst` (D3), or the engine's
turn to run the accepted command, which ends that command's CMD_LATENCY (R74, D23; log entry 1). -/
inductive Input where
  | access (a : Access)
  | rst (level : Bool)
  | engine
  deriving DecidableEq, Repr

/-- Why the machine stops. -/
inductive Fault where
  /-- Raised by the engine's `memRead` at an index outside IBUF (R50 gives MemRead no meaning there and the engine never
  makes such a read while LEN <= IBUF_BYTES). Safe: the model stops where the spec says nothing (log entry 7). -/
  | ibufIndexOutside (index : Nat)
  deriving DecidableEq, Repr

/-- Why an action has no meaning. -/
inductive Refusal where
  /-- Raised by an arm of `exec` whose command has no meaning yet (no arm does). Safe. -/
  | notModelled (mnemonic : String)
  /-- Raised by a host access with offset bits 1:0 nonzero: "has no meaning: a model refuses it" (R51, R157). Safe. -/
  | unalignedAccess (offset : Offset)
  /-- Raised by a host access of a width other than 32 bits (R51, R157). Safe. -/
  | accessWidth (width : Nat)
  deriving DecidableEq, Repr

/-- The state of one HPB (R11). -/
structure State where
  /-- IBUF_BYTES of this block (R7): no step changes it (log entry 3). -/
  ibufBytes : Nat
  /-- IBUF (R39). -/
  mem : Memory
  /-- CTRL.STRICT (R16). -/
  strict : Bool
  /-- CTRL.BUDGET (R16). -/
  budget : Bool
  /-- The accepted command word the engine has not finished; STATUS.BUSY says whether there is one (R18; log entry 4). -/
  running : Option Word
  /-- STATUS.HALTED (R19). -/
  halted : Bool
  /-- STATUS.ERR (R20). -/
  err : ErrCode
  /-- STATUS.PADDED (R21). -/
  padded : Bool
  /-- STATUS.OVR (R22). -/
  ovr : Bool
  /-- STATUS.CIDV (R23). -/
  cidv : Bool
  /-- LEN (R25). -/
  len : BitVec 16
  /-- RESULT (R26). -/
  result : BitVec 64
  /-- BYTEPOS (R27). -/
  bytepos : BitVec 16
  /-- CURSOR.CACHE (R28). -/
  cache : Byte
  /-- CURSOR.CACHE_BITS (R28). -/
  cacheBits : BitVec 4
  /-- CURSOR.HV (R28). -/
  hv : BitVec 2
  /-- CURSOR.H1 (R28). -/
  h1 : Byte
  /-- CURSOR.H2 (R28). -/
  h2 : Byte
  /-- CONSUMED (R29). -/
  consumed : Word
  /-- ERRINFO.OP (R30). -/
  errOp : BitVec 4
  /-- ERRINFO.KIND (R30). -/
  errKind : Bool
  /-- ERRPOS (R31). -/
  errpos : Word
  /-- PTL_GEN (R32). -/
  ptlGen : Word
  /-- PTL_COMPAT (R33). -/
  ptlCompat : Word
  /-- PTL_CONS_LO (R34). -/
  ptlConsLo : Word
  /-- PTL_CONS_HI (R35). -/
  ptlConsHi : Word
  /-- PTL_SUB (R36). -/
  ptlSub : Word
  /-- CIDLEN (R37). -/
  cidlen : BitVec 6
  /-- The CID buffer, 40 bytes, lowest index first (R38). -/
  cid : List Byte
  /-- The level of the `rst` input (D3, R145). -/
  rst : Bool
  /-- The bus's `rdata`: the word the last host read returned (D3; log entry 10). -/
  rdata : Word
  /-- What happens next at the border, first one first (log entry 1). -/
  inputs : List Input
  /-- How many free values have been taken (log entry 2). -/
  draws : Nat
  deriving DecidableEq, Repr

/-- STATUS.BUSY (R17, R18). -/
def State.busy (s : State) : Bool := s.running.isSome

/-- The machine right after reset: every register at the value of R14's reset column, IBUF with nothing written
(R47, R49, R145), and the block idle with `rst` released (R146). -/
def State.reset : State where
  ibufBytes := Config.ibufBytes
  mem := []
  strict := false
  budget := false
  running := none
  halted := false
  err := .none
  padded := false
  ovr := false
  cidv := false
  len := 0
  result := 0
  bytepos := 0
  cache := 0
  cacheBits := 0
  hv := 0
  h1 := 0
  h2 := 0
  consumed := 0
  errOp := 0
  errKind := false
  errpos := 0
  ptlGen := 0
  ptlCompat := 0
  ptlConsLo := 0
  ptlConsHi := 0
  ptlSub := 0
  cidlen := 0
  cid := List.replicate 40 0
  rst := false
  rdata := 0
  inputs := []
  draws := 0

end Sys2Proof.Machine
end

