-- ==== Sys2Proof/Machine/Ops.lean ====
section
/-! DEFINITION. The shared operations: reading and writing IBUF (R50, R52), taking a fault (R128), completing a command
(R76), the initial parse state (R48) and reset (R145). -/
namespace Sys2Proof.Machine

/-- The byte the host wrote at index `a`, if it wrote one since reset (R39, R49). -/
def Memory.read : Memory → Nat → Option Byte
  | [], _ => none
  | (k, b) :: rest, a => if k = a then some b else Memory.read rest a

/-- Write the byte at index `a`, keeping the canonical form. -/
def Memory.write : Memory → Nat → Byte → Memory
  | [], a, v => [(a, v)]
  | (k, b) :: rest, a, v =>
    if a < k then (a, v) :: (k, b) :: rest
    else if a = k then (a, v) :: rest
    else (k, b) :: Memory.write rest a v

/-- One free value has been taken (log entry 2). -/
def State.draw (s : State) : State := { s with draws := s.draws + 1 }

/-- Observe IBUF[a]: the byte the host wrote, or a draw where it has written none since reset (R49, R145). -/
def observeByte (a : Nat) (s : State) : Byte × State :=
  match s.mem.read a with
  | some b => (b, s)
  | none => (Config.freeByte s.draws, s.draw)

/-- What `raise` names (R125): the error and, for BufferExhausted, its kind. -/
inductive Raise where
  /-- BufferExhausted, KIND 0: a strict past-end fetch (R58). -/
  | strictEnd
  /-- BufferExhausted, KIND 1: the budget check (R61, R62). -/
  | budget
  /-- MalformedExpGolombCode: the 33rd leading zero (R100). -/
  | malformedExpGolombCode
  /-- IllegalCommand (R127). -/
  | illegalCommand
  deriving DecidableEq, Repr

/-- The STATUS.ERR code of an error (R125). -/
def Raise.code : Raise → ErrCode
  | .strictEnd => .bufferExhausted
  | .budget => .bufferExhausted
  | .malformedExpGolombCode => .malformedExpGolombCode
  | .illegalCommand => .illegalCommand

/-- ERRINFO.KIND of an error (R30, R125). -/
def Raise.kind : Raise → Bool
  | .strictEnd => false
  | .budget => true
  | .malformedExpGolombCode => false
  | .illegalCommand => false

/-- How a part of a command ends: with a value, with a `raise` (R128), or with a stop of the model. -/
inductive Res (α : Type) where
  | ok (a : α) (s : State)
  | raise (e : Raise) (s : State)
  | stop (f : Fault)
  deriving DecidableEq, Repr

/-- Go on with the value; after a `raise` nothing more runs (R9, R128). -/
def Res.andThen {α β : Type} (r : Res α) (f : α → State → Res β) : Res β :=
  match r with
  | .ok a s => f a s
  | .raise e s => .raise e s
  | .stop x => .stop x

/-- `MemRead(a, 1)` of the engine (R50). -/
def memRead (a : Nat) (s : State) : Res Byte :=
  if a < s.ibufBytes then
    match observeByte a s with
    | (b, s') => .ok b s'
  else .stop (.ibufIndexOutside a)

/-- The command is finished: STATUS.BUSY <- 0 (R76). -/
def State.complete (s : State) : State := { s with running := none }

/-- Fault entry, `Fault(code, kind, w)` of R128, with `op` = w[3:0]. -/
def State.faultEntry (e : Raise) (op : BitVec 4) (s : State) : State :=
  { s with
    halted := true
    err := e.code
    errOp := op
    errKind := e.kind
    errpos := s.consumed
    running := none }

/-- A command ends: it completes with its final writes made, or its fault is taken (R76, R128). -/
def finish {α : Type} (op : BitVec 4) (commit : α → State → State) (r : Res α) : Host.Outcome State Fault Refusal :=
  match r with
  | .ok a s => .next (commit a s).complete
  | .raise e s => .next (s.faultEntry e op)
  | .stop f => .fault f

/-- The initial parse state, set by INIT and by reset (R48): CTRL, LEN, ID and IBUF are not part of it. -/
def State.initParse (s : State) : State :=
  { s with
    bytepos := 0
    cache := 0
    cacheBits := 0
    hv := 0
    h1 := 0
    h2 := 0
    consumed := 0
    result := 0
    halted := false
    err := .none
    padded := false
    ovr := false
    cidv := false
    errOp := 0
    errKind := false
    errpos := 0
    ptlGen := 0
    ptlCompat := 0
    ptlConsLo := 0
    ptlConsHi := 0
    ptlSub := 0
    cidlen := 0
    cid := List.replicate 40 0 }

/-- Every register takes its reset value, a running command is abandoned and IBUF's contents become unspecified
(R145). What is not the block's own state stays: IBUF_BYTES, the bus, what the host does next, the draw counter. -/
def State.applyReset (level : Bool) (s : State) : State :=
  { s.initParse with
    mem := []
    strict := false
    budget := false
    running := none
    len := 0
    rst := level }

end Sys2Proof.Machine
end

