-- ==== Sys2Proof/Machine/Flags.lean ====
section
/-! DEFINITION. STATUS and the other registers as the 32-bit words the host sees (R14-R38), and the flags that host
accesses and commands set (R17, R43). -/
namespace Sys2Proof.Machine

/-- ID always reads 0x50544C01 (R15). -/
def idWord : Word := 0x50544C01

/-- The STATUS.ERR code (R20). -/
def ErrCode.code : ErrCode → BitVec 4
  | .none => 0
  | .bufferExhausted => 1
  | .malformedExpGolombCode => 2
  | .illegalCommand => 3

/-- CTRL as read (R16). -/
def ctrlWord (s : State) : Word := 0#30 ++ BitVec.ofBool s.budget ++ BitVec.ofBool s.strict

/-- A host write of CTRL: bits 31:2 are ignored (R16). -/
def State.writeCtrl (v : Word) (s : State) : State :=
  { s with strict := v.getLsbD 0, budget := v.getLsbD 1 }

/-- STATUS as read while BUSY = 0, and the value its bits hold in any state (R17). -/
def statusWord (s : State) : Word :=
  0#21 ++ BitVec.ofBool s.cidv ++ BitVec.ofBool s.ovr ++ BitVec.ofBool s.padded ++ s.err.code ++ 0#2
    ++ BitVec.ofBool s.halted ++ BitVec.ofBool s.busy

/-- STATUS as read while BUSY = 1: BUSY reads 1, every other bit is a draw (R152). -/
def busyStatusWord (d : Word) : Word := d.extractLsb' 1 31 ++ 1#1

/-- A CMD write was dropped because BUSY was 1 (R22, R151). -/
def State.setOvr (s : State) : State := { s with ovr := true }

/-- A host write of LEN stores min(v[15:0], IBUF_BYTES) (R25). -/
def State.writeLen (v : Word) (s : State) : State :=
  { s with len := BitVec.ofNat 16 (min (v.extractLsb' 0 16).toNat s.ibufBytes) }

/-- CURSOR as read (R28). -/
def cursorWord (s : State) : Word := s.h2 ++ s.h1 ++ 0#2 ++ s.hv ++ s.cacheBits ++ s.cache

/-- ERRINFO as read (R30). -/
def errInfoWord (s : State) : Word := 0#27 ++ BitVec.ofBool s.errKind ++ s.errOp

/-- Four bytes as a word, the byte with the lowest index in bits 7:0 (R53). -/
def packWord (b0 b1 b2 b3 : Byte) : Word := b3 ++ b2 ++ b1 ++ b0

/-- CID word `w` (R38). -/
def cidWord (w : Nat) (s : State) : Word :=
  packWord (s.cid.getD (4 * w) 0) (s.cid.getD (4 * w + 1) 0) (s.cid.getD (4 * w + 2) 0) (s.cid.getD (4 * w + 3) 0)

end Sys2Proof.Machine
end

