-- ==== Sys2Proof/Machine/Operands.lean ====
section
/-! DEFINITION. Where a command's data comes from: the ARG operands (R89) and the bit cursor's primitives
FetchDelivered, NextBit and ReadBitsInternal (R58, R61, R63), the only way a command consumes bits (R2, R10). -/
namespace Sys2Proof.Machine

/-- The operand n of RDBITS and SKBITS: ARG, unsigned, not biased (R80, R89). -/
def countOperand (n : BitVec 6) : Nat := n.toNat

/-- The operand m of PTL: ARG[2:0], unsigned (R82, R89). -/
def subLayerOperand (m : BitVec 3) : Nat := m.toNat

/-- The cursor takes the raw byte `b`: BYTEPOS and the history move (R58). -/
def State.takeRaw (b : Byte) (s : State) : State :=
  { s with
    bytepos := s.bytepos + 1
    h2 := s.h1
    h1 := b
    hv := BitVec.ofNat 2 (min (s.hv.toNat + 1) 2) }

/-- The raw byte `b` is an emulation-prevention byte: the drop test of R56, on the history before `b`. -/
def State.drops (s : State) (b : Byte) : Bool :=
  b == 0x03 && s.hv == 2 && s.h1 == 0x00 && s.h2 == 0x00

/-- A pad byte has been delivered (R59). -/
def State.setPadded (s : State) : State := { s with padded := true }

/-- A fetch at BYTEPOS >= LEN: BufferExhausted in strict mode, else a pad byte (R58, R59). -/
def fetchPastEnd (s : State) : Res Byte :=
  if s.strict then .raise .strictEnd s else .ok 0x00 s.setPadded

/-- The loop of FetchDelivered (R58), on the number of raw bytes left below LEN. -/
def fetchLoop : Nat → State → Res Byte
  | 0, s => fetchPastEnd s
  | left + 1, s =>
    (memRead s.bytepos.toNat s).andThen fun b s' =>
      if s'.drops b then fetchLoop left (s'.takeRaw b) else .ok b (s'.takeRaw b)

/-- `FetchDelivered()`: the next delivered byte (R58). -/
def fetchDelivered (s : State) : Res Byte := fetchLoop (s.len.toNat - s.bytepos.toNat) s

/-- CACHE <- b; CACHE_BITS <- 8 (R61). -/
def State.fillCache (b : Byte) (s : State) : State := { s with cache := b, cacheBits := 8 }

/-- CONSUMED plus `n`, saturating at 0xFFFFFFFF (R29). -/
def satAdd (c : Word) (n : Nat) : Word := BitVec.ofNat 32 (min (c.toNat + n) 0xFFFFFFFF)

/-- CACHE_BITS and CONSUMED move by one bit (R61). -/
def State.countBit (s : State) : State :=
  { s with cacheBits := s.cacheBits - 1, consumed := satAdd s.consumed 1 }

/-- The bit of CACHE that is consumed next (R61). -/
def State.cacheBit (s : State) : Bool := s.cache.getLsbD (s.cacheBits.toNat - 1)

/-- The budget check of R61 would fail: CTRL.BUDGET = 1 and CONSUMED + 1 > 8 x LEN. -/
def State.overBudget (s : State) : Bool := s.budget && decide (8 * s.len.toNat < s.consumed.toNat + 1)

/-- `NextBit()`: the next bit of the logical stream (R61). -/
def nextBit (s : State) : Res Bool :=
  if s.overBudget then .raise .budget s
  else if s.cacheBits = 0 then
    (fetchDelivered s).andThen fun b s' =>
      .ok (s'.fillCache b).cacheBit (s'.fillCache b).countBit
  else .ok s.cacheBit s.countBit

/-- The loop of ReadBitsInternal (R63): `n` bits still to come, `v` read so far; v <- (v << 1) | bit. -/
def readBitsLoop : Nat → Nat → State → Res Nat
  | 0, v, s => .ok v s
  | n + 1, v, s => (nextBit s).andThen fun b s' => readBitsLoop n (2 * v + b.toNat) s'

/-- `ReadBitsInternal(n)`: the next `n` bits, first bit most significant (R63). -/
def readBits (n : Nat) (s : State) : Res Nat := readBitsLoop n 0 s

/-- A field of `w` bits, as u_w. -/
def readField (w : Nat) (s : State) : Res (BitVec w) :=
  (readBits w s).andThen fun v s' => .ok (BitVec.ofNat w v) s'

/-- `count` fields of `w` bits, in order of reading. -/
def readFields (w : Nat) : Nat → State → Res (List (BitVec w))
  | 0, s => .ok [] s
  | count + 1, s =>
    (readField w s).andThen fun x s1 =>
      (readFields w count s1).andThen fun xs s2 => .ok (x :: xs) s2

end Sys2Proof.Machine
end

