-- ==== Sys2Proof/Machine/Bus.lean ====
section
/-! DEFINITION. The host's side: the register map (R14), reads and writes of it (R39, R51, R52, R151, R152), CMD writes
(R24, R76, R131) and the `rst` input (R145, R146). -/
namespace Sys2Proof.Machine

/-- What an offset names (R14). -/
inductive Target where
  | id
  | ctrl
  | status
  | cmd
  | len
  | resultLo
  | resultHi
  | bytepos
  | cursor
  | consumed
  | errinfo
  | errpos
  | ptlGen
  | ptlCompat
  | ptlConsLo
  | ptlConsHi
  | ptlSub
  | cidlen
  | cid (w : Nat)
  | ibuf (j : Nat)
  | reserved
  deriving DecidableEq, Repr

/-- The register map of R14, on a word-aligned offset `a`: `ibufBytes` is IBUF_BYTES. -/
def targetAt (ibufBytes a : Nat) : Target :=
  if a = 0x000 then .id
  else if a = 0x004 then .ctrl
  else if a = 0x008 then .status
  else if a = 0x00C then .cmd
  else if a = 0x010 then .len
  else if a = 0x014 then .resultLo
  else if a = 0x018 then .resultHi
  else if a = 0x01C then .bytepos
  else if a = 0x020 then .cursor
  else if a = 0x024 then .consumed
  else if a = 0x028 then .errinfo
  else if a = 0x02C then .errpos
  else if a = 0x030 then .ptlGen
  else if a = 0x034 then .ptlCompat
  else if a = 0x038 then .ptlConsLo
  else if a = 0x03C then .ptlConsHi
  else if a = 0x040 then .ptlSub
  else if a = 0x044 then .cidlen
  else if 0x080 ≤ a ∧ a < 0x0A8 then .cid ((a - 0x080) / 4)
  else if 0x10000 ≤ a ∧ a - 0x10000 < ibufBytes then .ibuf ((a - 0x10000) / 4)
  else .reserved

/-- What an offset of the bus names (R14). -/
def targetOf (ibufBytes : Nat) (offset : Offset) : Target := targetAt ibufBytes offset.toNat

/-- IBUF[a] as the host reads it: a byte at an index >= IBUF_BYTES reads 0 (R39, R52). -/
def hostByte (a : Nat) (s : State) : Byte × State :=
  if a < s.ibufBytes then observeByte a s else (0, s)

/-- IBUF word `j` as the host reads it (R39, R52). -/
def ibufWord (j : Nat) (s : State) : Word × State :=
  match hostByte (4 * j) s with
  | (b0, s0) =>
    match hostByte (4 * j + 1) s0 with
    | (b1, s1) =>
      match hostByte (4 * j + 2) s1 with
      | (b2, s2) =>
        match hostByte (4 * j + 3) s2 with
        | (b3, s3) => (packWord b0 b1 b2 b3, s3)

/-- What a read returns while BUSY = 0 (R14-R39). -/
def readTarget (t : Target) (s : State) : Word × State :=
  match t with
  | .id => (idWord, s)
  | .ctrl => (ctrlWord s, s)
  | .status => (statusWord s, s)
  | .cmd => (0, s)
  | .len => (s.len.setWidth 32, s)
  | .resultLo => (s.result.extractLsb' 0 32, s)
  | .resultHi => (s.result.extractLsb' 32 32, s)
  | .bytepos => (s.bytepos.setWidth 32, s)
  | .cursor => (cursorWord s, s)
  | .consumed => (s.consumed, s)
  | .errinfo => (errInfoWord s, s)
  | .errpos => (s.errpos, s)
  | .ptlGen => (s.ptlGen, s)
  | .ptlCompat => (s.ptlCompat, s)
  | .ptlConsLo => (s.ptlConsLo, s)
  | .ptlConsHi => (s.ptlConsHi, s)
  | .ptlSub => (s.ptlSub, s)
  | .cidlen => (s.cidlen.setWidth 32, s)
  | .cid w => (cidWord w s, s)
  | .ibuf j => ibufWord j s
  | .reserved => (0, s)

/-- What a read returns while BUSY = 1: ID as always, a reserved offset 0, STATUS with BUSY = 1 and its other bits a
draw, and a draw for everything else (R152, R157; log entry 8). -/
def readBusy (t : Target) (s : State) : Word × State :=
  match t with
  | .id => (idWord, s)
  | .reserved => (0, s)
  | .status => (busyStatusWord (Config.freeWord s.draws), s.draw)
  | _ => (Config.freeWord s.draws, s.draw)

/-- The read's word is on `rdata` (D3; log entry 10). -/
def State.returnWord (v : Word) (s : State) : State := { s with rdata := v }

/-- A host read; it has no side effect (R65). -/
def hostRead (t : Target) (s : State) : State :=
  match if s.busy then readBusy t s else readTarget t s with
  | (v, s') => s'.returnWord v

/-- IBUF[a] <- v if a < IBUF_BYTES (R52). -/
def writeByte (a : Nat) (v : Byte) (s : State) : State :=
  if a < s.ibufBytes then { s with mem := s.mem.write a v } else s

/-- `MemWrite(4j, 4, v)`: a host write of IBUF word `j` (R52). -/
def writeIbufWord (j : Nat) (v : Word) (s : State) : State :=
  writeByte (4 * j + 3) (v.extractLsb' 24 8)
    (writeByte (4 * j + 2) (v.extractLsb' 16 8)
      (writeByte (4 * j + 1) (v.extractLsb' 8 8)
        (writeByte (4 * j) (v.extractLsb' 0 8) s)))

/-- The command word is accepted: BUSY <- 1 (R18, R76). -/
def State.accept (w : Word) (s : State) : State := { s with running := some w }

/-- A CMD write while BUSY = 0: dropped while halted, unless it is exactly INIT (R131), else accepted (R76). -/
def issueCommand (w : Word) (s : State) : State :=
  if s.halted && w != 0x00000001 then s else s.accept w

/-- A write while BUSY = 0 (R14). -/
def writeTarget (t : Target) (v : Word) (s : State) : State :=
  match t with
  | .ctrl => s.writeCtrl v
  | .cmd => issueCommand v s
  | .len => s.writeLen v
  | .ibuf j => writeIbufWord j v s
  | .id | .status | .resultLo | .resultHi | .bytepos | .cursor | .consumed | .errinfo | .errpos | .ptlGen
  | .ptlCompat | .ptlConsLo | .ptlConsHi | .ptlSub | .cidlen | .cid _ | .reserved => s

/-- A write while BUSY = 1 is dropped; a CMD write sets OVR (R151). -/
def writeBusy (t : Target) (s : State) : State :=
  match t with
  | .cmd => s.setOvr
  | _ => s

/-- A host write; while `rst` is asserted it has no effect (R146). -/
def hostWrite (t : Target) (v : Word) (s : State) : State :=
  if s.rst then s else if s.busy then writeBusy t s else writeTarget t v s

/-- One host access: refused if it is not 32 bits wide or not word-aligned (R51), else done (R157). -/
def hostAccess (a : Access) (s : State) : Host.Outcome State Fault Refusal :=
  match a with
  | .read width offset =>
    if width ≠ 32 then .refused (.accessWidth width)
    else if offset.extractLsb' 0 2 ≠ 0 then .refused (.unalignedAccess offset)
    else .next (hostRead (targetOf s.ibufBytes offset) s)
  | .write width offset v =>
    if width ≠ 32 then .refused (.accessWidth width)
    else if offset.extractLsb' 0 2 ≠ 0 then .refused (.unalignedAccess offset)
    else .next (hostWrite (targetOf s.ibufBytes offset) v s)

/-- The `rst` input goes to a level: while it is asserted, and on its release, every register takes its reset value
(R145); a level that stays low changes nothing (log entry 11). -/
def resetInput (level : Bool) (s : State) : State :=
  if level || s.rst then s.applyReset level else s

end Sys2Proof.Machine
end

