-- ==== Sys2Proof/Syntax.lean ====
section
/-! DEFINITION. The commands of the HPB, one constructor per row of spec/opcode_table.json (R78). -/
namespace Sys2Proof

/-- A command. `n` is the whole ARG field of RDBITS and SKBITS (R80); `m` is ARG[2:0] of PTL (R82). -/
inductive Instr where
  /-- INIT: start a parse (R79, R90). -/
  | init
  /-- RDBITS n: read n bits into RESULT (R80, R92). -/
  | rdbits (n : BitVec 6)
  /-- SKBITS n: skip n bits (R80, R95). -/
  | skbits (n : BitVec 6)
  /-- RDUE: read one unsigned Exp-Golomb code into RESULT (R81, R100). -/
  | rdue
  /-- PTL m: parse one profile_tier_level() with max_sub_layers_minus1 = m (R82, R107). -/
  | ptl (m : BitVec 3)
  deriving DecidableEq, Repr

end Sys2Proof
end

