-- ==== Sys2Proof/WellFormed.lean ====
section
/-! DEFINITION. Which commands a CMD word can stand for: the range 1..32 of n (R80, R83). Every m of PTL is legal (R82). -/
namespace Sys2Proof

/-- The operand range of RDBITS and SKBITS: 1 <= n <= 32 (R80). -/
def countInRange (n : BitVec 6) : Bool := decide (1 ≤ n.toNat) && decide (n.toNat ≤ 32)

/-- The command has an encoding (R77). -/
def Instr.wellFormed : Instr → Bool
  | .init => true
  | .rdbits n => countInRange n
  | .skbits n => countInRange n
  | .rdue => true
  | .ptl _ => true

end Sys2Proof
end

