-- ==== Sys2Proof/Decode.lean ====
section
/-! DEFINITION. Decoding a CMD word (R75, R77), total on every 32-bit word and refusing by name, and the encoder
(R79-R82). -/
namespace Sys2Proof

/-- Why a word is illegal (R83). -/
inductive IllegalWord where
  /-- A nonzero bit in 31:10 (R75 field Z). -/
  | nonzeroZ
  /-- OP = 0x0 or 0x6..0xF (R78). -/
  | reservedOp (op : BitVec 4)
  /-- INIT or RDUE with ARG != 0 (R79, R81). -/
  | argNotZero (op : BitVec 4)
  /-- RDBITS or SKBITS with ARG = 0 or ARG > 32 (R80). -/
  | countOutOfRange (op : BitVec 4) (arg : BitVec 6)
  /-- PTL with ARG[5:3] != 0 (R82). -/
  | ptlArgHigh (arg : BitVec 6)
  deriving DecidableEq, Repr

/-- Field OP, bits 3:0 (R75). -/
def opField (w : Word) : BitVec 4 := w.extractLsb' 0 4

/-- Field ARG, bits 9:4 (R75). -/
def argField (w : Word) : BitVec 6 := w.extractLsb' 4 6

/-- Field Z, bits 31:10 (R75). -/
def zField (w : Word) : BitVec 22 := w.extractLsb' 10 22

/-- Decode(w) of R77. -/
def decode (w : Word) : Except IllegalWord Instr :=
  let op := opField w
  let arg := argField w
  if zField w ≠ 0 then .error .nonzeroZ
  else if op = 0x1 then if arg = 0 then .ok .init else .error (.argNotZero op)
  else if op = 0x2 then if countInRange arg then .ok (.rdbits arg) else .error (.countOutOfRange op arg)
  else if op = 0x3 then if countInRange arg then .ok (.skbits arg) else .error (.countOutOfRange op arg)
  else if op = 0x4 then if arg = 0 then .ok .rdue else .error (.argNotZero op)
  else if op = 0x5 then
    if arg.extractLsb' 3 3 = 0 then .ok (.ptl (arg.extractLsb' 0 3)) else .error (.ptlArgHigh arg)
  else .error (.reservedOp op)

/-- The OP value of a command (R78). -/
def Instr.op : Instr → BitVec 4
  | .init => 0x1
  | .rdbits _ => 0x2
  | .skbits _ => 0x3
  | .rdue => 0x4
  | .ptl _ => 0x5

/-- The ARG value of a command (R79-R82). -/
def Instr.arg : Instr → BitVec 6
  | .init => 0
  | .rdbits n => n
  | .skbits n => n
  | .rdue => 0
  | .ptl m => 0#3 ++ m

/-- The word of a command: Z = 0, ARG, OP (R75, R79-R82). -/
def encode (i : Instr) : Word := 0#22 ++ i.arg ++ i.op

/-- The command word whose bits, numbered as spec/opcode_table.json numbers them, are the `nbits` low bits of `w`. -/
def tableWord (nbits w : Nat) : Word := BitVec.ofNat 32 (w % 2 ^ nbits)

/-- What the decoder reads from a row's word; `none` where it refuses. -/
def decodeTableWord (nbits w : Nat) : Option Instr := (decode (tableWord nbits w)).toOption

end Sys2Proof
end

