-- ==== Sys2Proof/Machine/Cursor.lean ====
section
/-! DEFINITION. The bit-cursor commands INIT, RDBITS and SKBITS (spec/40_cursor.md). -/
namespace Sys2Proof.Machine

/-- INIT (R90). -/
def execInit (s : State) : Host.Outcome State Fault Refusal := .next s.initParse.complete

/-- RESULT <- zext_64(v) (R26, R92, R100). -/
def State.setResult (v : Nat) (s : State) : State := { s with result := BitVec.ofNat 64 v }

/-- RDBITS n (R92). -/
def execRdbits (n : BitVec 6) (s : State) : Host.Outcome State Fault Refusal :=
  finish (Instr.rdbits n).op State.setResult (readBits (countOperand n) s)

/-- SKBITS n: the value is discarded (R95). -/
def execSkbits (n : BitVec 6) (s : State) : Host.Outcome State Fault Refusal :=
  finish (Instr.skbits n).op (fun _ t => t) (readBits (countOperand n) s)

end Sys2Proof.Machine
end

