-- ==== Sys2Proof/Machine/ExpGolomb.lean ====
section
/-! DEFINITION. The Exp-Golomb command RDUE (spec/41_expgolomb.md). -/
namespace Sys2Proof.Machine

/-- KMAX, the cap on leading zeros (R7, D16). -/
def kmax : Nat := 32

/-- The zero run of R100, with `k` zeros taken and `left` more allowed: the number of leading zeros; the terminating
1 is consumed and not counted, and the zero after KMAX zeros raises MalformedExpGolombCode as it is consumed. -/
def leadingZeros : Nat → Nat → State → Res Nat
  | left, k, s =>
    (nextBit s).andThen fun b s' =>
      if b then .ok k s'
      else
        match left with
        | 0 => .raise .malformedExpGolombCode s'
        | left + 1 => leadingZeros left (k + 1) s'

/-- One unsigned Exp-Golomb code: (2^k - 1) + suffix (R100). -/
def readUe (s : State) : Res Nat :=
  (leadingZeros kmax 0 s).andThen fun k s' =>
    (readBits k s').andThen fun suffix s'' => .ok ((2 ^ k - 1) + suffix) s''

/-- RDUE (R100). -/
def execRdue (s : State) : Host.Outcome State Fault Refusal :=
  finish Instr.rdue.op State.setResult (readUe s)

end Sys2Proof.Machine
end

