-- ==== Sys2Proof/Machine/CodecId.lean ====
section
/-! DEFINITION. The codec-id formatter of PTL (spec/42_ptl.md R118-R124). -/
namespace Sys2Proof.Machine

/-- The character of a digit 0..15: 0-9, then lowercase a-f (R119). -/
def digitChar (d : Nat) : Char := if d < 10 then Char.ofNat (48 + d) else Char.ofNat (87 + d)

/-- The digits of `v` in `base`, most significant first, at most `fuel` of them. -/
def digits (base : Nat) : Nat → Nat → List Char
  | 0, _ => []
  | fuel + 1, v => if v < base then [digitChar v] else digits base fuel (v / base) ++ [digitChar (v % base)]

/-- Dec(v): decimal, no leading zeros, "0" for 0 (R119). -/
def dec (v : Nat) : List Char := digits 10 (Nat.log2 v + 1) v

/-- Hex(v): lowercase hexadecimal, no leading zeros, "0" for 0 (R119). -/
def hex (v : Nat) : List Char := digits 16 (Nat.log2 v + 1) v

/-- The profile-space letter: none for 0, then A, B, C (R120). -/
def spaceLetter (ps : BitVec 2) : List Char :=
  if ps = 1 then ['A'] else if ps = 2 then ['B'] else if ps = 3 then ['C'] else []

/-- The tier letter (R120). -/
def tierLetter (tf : BitVec 1) : Char := if tf = 0 then 'L' else 'H'

/-- The constraint tokens: from the highest nonzero byte down to cons[0], each as "." and Hex (R122). -/
def constraintTokens (cons : List Byte) : List Char :=
  (cons.reverse.dropWhile (· == 0)).flatMap fun c => '.' :: hex c.toNat

/-- FormatCid (R118). -/
def formatCid (ps : BitVec 2) (tf : BitVec 1) (idc : BitVec 5) (compat : Word) (cons : List Byte) (lvl : Byte) :
    List Char :=
  ['h', 'v', 'c', '1', '.'] ++ spaceLetter ps ++ dec idc.toNat ++ ['.'] ++ hex compat.toNat ++ ['.']
    ++ [tierLetter tf] ++ dec lvl.toNat ++ constraintTokens cons

/-- The ASCII code of a character (R123). -/
def ascii (c : Char) : Byte := BitVec.ofNat 8 c.toNat

/-- The 40 bytes of the CID buffer for a codec-id: its characters, then 0x00 (R38, R107). -/
def cidBytes (name : List Char) : List Byte :=
  (List.range 40).map fun j => (name.map ascii).getD j 0x00

end Sys2Proof.Machine
end

