-- ==== Sys2Proof/Machine/Ptl.lean ====
section
/-! DEFINITION. The profile/tier/level command PTL (spec/42_ptl.md). -/
namespace Sys2Proof.Machine

/-- What steps 1 to 5 read: the general fields and the (profile_present_flag, level_present_flag) pairs (R107). -/
structure PtlFields where
  ps : BitVec 2
  tf : BitVec 1
  idc : BitVec 5
  compatBytes : List Byte
  cons : List Byte
  lvl : Byte
  subLayers : List (BitVec 1 × BitVec 1)
  deriving DecidableEq, Repr

/-- Step 5: one pair of flags for each of `m` sub-layers, in order (R112). -/
def readSubLayerFlags : Nat → State → Res (List (BitVec 1 × BitVec 1))
  | 0, s => .ok [] s
  | m + 1, s =>
    (readField 1 s).andThen fun pp s1 =>
      (readField 1 s1).andThen fun lp s2 =>
        (readSubLayerFlags m s2).andThen fun rest s3 => .ok ((pp, lp) :: rest) s3

/-- Step 6: the reserved alignment bits, only when m != 0 (R113). -/
def skipAlignment (m : Nat) (s : State) : Res Nat :=
  if m ≠ 0 then readBits ((8 - m) * 2) s else .ok 0 s

/-- Step 7: for each sub-layer 88 bits if its profile is present, then 8 bits if its level is (R114). -/
def skipSubLayers : List (BitVec 1 × BitVec 1) → State → Res Unit
  | [], s => .ok () s
  | (pp, lp) :: rest, s =>
    (if pp = 1 then readBits 88 s else .ok 0 s).andThen fun _ s1 =>
      (if lp = 1 then readBits 8 s1 else .ok 0 s1).andThen fun _ s2 => skipSubLayers rest s2

/-- Steps 1 to 7 (R107-R114). -/
def parsePtl (m : Nat) (s : State) : Res PtlFields :=
  (readField 2 s).andThen fun ps s =>
  (readField 1 s).andThen fun tf s =>
  (readField 5 s).andThen fun idc s =>
  (readFields 8 4 s).andThen fun compatBytes s =>
  (readFields 8 6 s).andThen fun cons s =>
  (readField 8 s).andThen fun lvl s =>
  (readSubLayerFlags m s).andThen fun subLayers s =>
  (skipAlignment m s).andThen fun _ s =>
  (skipSubLayers subLayers s).andThen fun _ s =>
    .ok { ps, tf, idc, compatBytes, cons, lvl, subLayers } s

/-- Byte `i` of a list of bytes read in order. -/
def byteAt (l : List Byte) (i : Nat) : Byte := l.getD i 0

/-- profile_compatibility_flags: the first byte read least significant (R109). -/
def PtlFields.compat (f : PtlFields) : Word :=
  byteAt f.compatBytes 3 ++ byteAt f.compatBytes 2 ++ byteAt f.compatBytes 1 ++ byteAt f.compatBytes 0

/-- PTL_GEN (R32). -/
def PtlFields.gen (m : BitVec 3) (f : PtlFields) : Word := 0#13 ++ m ++ f.lvl ++ f.idc ++ f.tf ++ f.ps

/-- PTL_CONS_LO (R34). -/
def PtlFields.consLo (f : PtlFields) : Word :=
  byteAt f.cons 3 ++ byteAt f.cons 2 ++ byteAt f.cons 1 ++ byteAt f.cons 0

/-- PTL_CONS_HI (R35). -/
def PtlFields.consHi (f : PtlFields) : Word := 0#16 ++ byteAt f.cons 5 ++ byteAt f.cons 4

/-- PTL_SUB from sub-layer `i` on: bit i is its profile flag, bit 8+i its level flag (R36). -/
def subWordFrom : Nat → List (BitVec 1 × BitVec 1) → Word
  | _, [] => 0
  | i, (pp, lp) :: rest =>
    ((pp.setWidth 32) <<< i) ||| ((lp.setWidth 32) <<< (8 + i)) ||| subWordFrom (i + 1) rest

/-- The codec-id of the fields (R118). -/
def PtlFields.codecId (f : PtlFields) : List Char := formatCid f.ps f.tf f.idc f.compat f.cons f.lvl

/-- The commit of PTL: the PTL registers, CIDLEN, the CID buffer and CIDV, all together (R107). -/
def State.commitPtl (m : BitVec 3) (f : PtlFields) (s : State) : State :=
  { s with
    ptlGen := f.gen m
    ptlCompat := f.compat
    ptlConsLo := f.consLo
    ptlConsHi := f.consHi
    ptlSub := subWordFrom 0 f.subLayers
    cidlen := BitVec.ofNat 6 f.codecId.length
    cid := cidBytes f.codecId
    cidv := true }

/-- PTL m (R107). -/
def execPtl (m : BitVec 3) (s : State) : Host.Outcome State Fault Refusal :=
  finish (Instr.ptl m).op (State.commitPtl m) (parsePtl (subLayerOperand m) s)

end Sys2Proof.Machine
end

