-- ==== Sys2Proof/Machine/Dispatch.lean ====
section
/-! DEFINITION. One arm per command, each a direct call of its meaning (spec/30_encoding.md R76, R78). -/
namespace Sys2Proof.Machine

def exec (i : Instr) (s : State) : Host.Outcome State Fault Refusal :=
  match i with
  | .init => Sys2Proof.Machine.execInit s
  | .rdbits n => Sys2Proof.Machine.execRdbits n s
  | .skbits n => Sys2Proof.Machine.execSkbits n s
  | .rdue => Sys2Proof.Machine.execRdue s
  | .ptl m => Sys2Proof.Machine.execPtl m s

end Sys2Proof.Machine
end

