-- ==== Sys2Proof/Machine/Engine.lean ====
section
/-! DEFINITION. The engine's turn (R76) and what one input does. -/
namespace Sys2Proof.Machine

/-- The engine runs the accepted command word `w` to its end, as one atomic step (R74, R76): an illegal word raises
IllegalCommand before anything else happens (R77, R127). -/
def runWord (w : Word) (s : State) : Host.Outcome State Fault Refusal :=
  match decode w with
  | .ok i => exec i s
  | .error _ => .next (s.faultEntry .illegalCommand (opField w))

/-- The engine's turn: it runs the accepted command, and is idle when there is none (R3, R143). -/
def engineTurn (s : State) : Host.Outcome State Fault Refusal :=
  match s.running with
  | some w => runWord w s
  | none => .next s

/-- One input of the block. -/
def takeInput (i : Input) (s : State) : Host.Outcome State Fault Refusal :=
  match i with
  | .access a => hostAccess a s
  | .rst level => .next (resetInput level s)
  | .engine => engineTurn s

/-- The first input is taken off the list. -/
def State.setInputs (rest : List Input) (s : State) : State := { s with inputs := rest }

/-- The state in which the accepted command word is `w` and the engine moves next. -/
def State.aboutToRun (w : Word) (s : State) : State := (s.setInputs (.engine :: s.inputs)).accept w

end Sys2Proof.Machine
end

