-- ==== Sys2Proof/Machine/Step.lean ====
section
/-! DEFINITION. One step of the block: the next host access, change of `rst` or engine's turn, in the order of the
one total order of R74 (log entry 1), and where a program's command stands for the host (log entry 12). -/
namespace Sys2Proof.Machine

/-- One step. When nothing more is to come from outside, the engine moves: every command completes (R159). -/
def step (s : State) : Host.Outcome State Fault Refusal :=
  match s.inputs with
  | [] => engineTurn s
  | i :: rest => takeInput i (s.setInputs rest)

/-- `s` with the instruction accepted by CMD (R76), the engine's turn next: the very next step runs it. -/
def State.withFetchWord (s : State) (nbits w : Nat) : State := s.aboutToRun (tableWord nbits w)

end Sys2Proof.Machine
end

