-- ==== Sys2Proof/Machine/Pseudo.lean ====
section
/-! DEFINITION. The host's listings: a mnemonic as the bus accesses it stands for (R86, R88), and the
pseudo-instructions (R87). They are host text: the block itself sees only the accesses. -/
namespace Sys2Proof.Machine

/-- `wr REG, v` as an access (R85). -/
def wr (offset : Offset) (v : Word) : Input := .access (.write 32 offset v)

/-- `rd REG` as an access (R85). -/
def rd (offset : Offset) : Input := .access (.read 32 offset)

/-- The offset of CMD (R14). -/
def cmdOffset : Offset := 0x00C

/-- The offset of STATUS (R14). -/
def statusOffset : Offset := 0x008

/-- A mnemonic: `wr CMD, <word>` then `wait` (R86). The wait loop reads STATUS (R88) `polls` times while the command
runs and once after the engine's turn. -/
def mnemonic (polls : Nat) (i : Instr) : List Input :=
  wr cmdOffset (encode i) :: (List.replicate polls (rd statusOffset) ++ [.engine, rd statusOffset])

/-- RDFLAG is RDBITS 1 (R87). -/
def rdflag : Instr := .rdbits 1

/-- RDBYTE is RDBITS 8 (R87). -/
def rdbyte : Instr := .rdbits 8

/-- SKUE is RDUE, RESULT then ignored (R87). -/
def skue : Instr := .rdue

/-- SKIPL n: floor(n/32) times SKBITS 32, then SKBITS (n mod 32) if that is not 0 (R87). -/
def skipl (n : Nat) : List Instr :=
  List.replicate (n / 32) (.skbits 32) ++ (if n % 32 ≠ 0 then [.skbits (BitVec.ofNat 6 (n % 32))] else [])

/-- CHECK reads STATUS; the host stops its program if HALTED, bit 1, is set (R87). -/
def checkAccess : Input := rd statusOffset

/-- What the host decides after CHECK, from the word it read (R87). -/
def checkStops (status : Word) : Bool := status.getLsbD 1

end Sys2Proof.Machine
end

