-- ==== Sys2Proof/Safety.lean ====
section
/-! DEFINITION. The terms claims are stated in: the invariant of a state the block can be in, the logical stream a
cursor has before it (R54, R56, R59), what a command may change, and a sequence of commands. -/
namespace Sys2Proof.Machine

/-! ### The invariant -/

/-- IBUF_BYTES is in its range (R7). -/
abbrev State.ParameterLegal (s : State) : Prop := 1 ≤ s.ibufBytes ∧ s.ibufBytes ≤ 65535

/-- IBUF's listing is canonical and inside IBUF (R39, R52). -/
abbrev State.IbufLegal (s : State) : Prop := s.mem.wf = true ∧ ∀ c ∈ s.mem, c.1 < s.ibufBytes

/-- LEN <= IBUF_BYTES (R25) and BYTEPOS <= IBUF_BYTES (R27). -/
abbrev State.PositionLegal (s : State) : Prop := s.len.toNat ≤ s.ibufBytes ∧ s.bytepos.toNat ≤ s.ibufBytes

/-- CACHE_BITS is 0..8, HV counts the raw bytes fetched up to 2, and empty history bytes are 0 (R28, R40). -/
abbrev State.CursorLegal (s : State) : Prop :=
  s.cacheBits.toNat ≤ 8 ∧ s.hv.toNat = min s.bytepos.toNat 2 ∧ (s.hv = 0 → s.h1 = 0) ∧ (s.hv.toNat < 2 → s.h2 = 0)

/-- While CONSUMED is not saturated, it and CACHE_BITS make whole delivered bytes; and with no pad byte delivered,
the delivered bytes are among the raw bytes fetched (R94). -/
abbrev State.CountLegal (s : State) : Prop :=
  (s.consumed ≠ 0xFFFFFFFF → (s.consumed.toNat + s.cacheBits.toNat) % 8 = 0) ∧
  (s.padded = false → s.consumed.toNat + s.cacheBits.toNat ≤ 8 * s.bytepos.toNat)

/-- ERR is 0 exactly while not halted, the record is 0 then, KIND is set for BufferExhausted only, ERRPOS is CONSUMED
while halted, and each error comes from a command that can raise it (R20, R30, R31, R125). -/
abbrev State.RecordLegal (s : State) : Prop :=
  (s.halted = false ↔ s.err = .none) ∧
  (s.halted = false → s.errOp = 0 ∧ s.errKind = false ∧ s.errpos = 0) ∧
  (s.halted = true → s.errpos = s.consumed) ∧
  (s.errKind = true → s.err = .bufferExhausted) ∧
  (s.err = .bufferExhausted → s.errOp = 2 ∨ s.errOp = 3 ∨ s.errOp = 4 ∨ s.errOp = 5) ∧
  (s.err = .malformedExpGolombCode → s.errOp = 4)

/-- While halted only INIT can have been accepted (R131). -/
abbrev State.HaltLegal (s : State) : Prop := s.halted = true → s.running = none ∨ s.running = some 0x00000001

/-- M of PTL_GEN (R32). -/
def State.ptlM (s : State) : Nat := (s.ptlGen.extractLsb' 16 3).toNat

/-- Reserved bits of the PTL registers are 0, sub-layers from M on read 0, and without a completed PTL all are 0
(R23, R32, R35, R36, R48). -/
abbrev State.PtlLegal (s : State) : Prop :=
  s.ptlGen.extractLsb' 19 13 = 0 ∧ s.ptlConsHi.extractLsb' 16 16 = 0 ∧ s.ptlSub.getLsbD 7 = false ∧
  s.ptlSub.extractLsb' 15 17 = 0 ∧
  (∀ i < 7, s.ptlM ≤ i → s.ptlSub.getLsbD i = false ∧ s.ptlSub.getLsbD (8 + i) = false) ∧
  (s.cidv = false → s.ptlGen = 0 ∧ s.ptlCompat = 0 ∧ s.ptlConsLo = 0 ∧ s.ptlConsHi = 0 ∧ s.ptlSub = 0)

/-- CIDLEN is 0, or 11..40 after a completed PTL, and CID bytes from CIDLEN on are 0 (R23, R37, R38, R121). -/
abbrev State.CidLegal (s : State) : Prop :=
  s.cid.length = 40 ∧ (s.cidv = false → s.cidlen = 0) ∧ (s.cidv = true → 11 ≤ s.cidlen.toNat ∧ s.cidlen.toNat ≤ 40) ∧
  ∀ j < 40, s.cidlen.toNat ≤ j → s.cid.getD j 0 = 0

/-- While `rst` is asserted every register holds its reset value and IBUF is unspecified (R145). -/
abbrev State.ResetLegal (s : State) : Prop := s.rst = true → s = s.applyReset true

/-- The invariant every step keeps. -/
abbrev State.Inv (s : State) : Prop :=
  s.ParameterLegal ∧ s.IbufLegal ∧ s.PositionLegal ∧ s.CursorLegal ∧ s.CountLegal ∧ s.RecordLegal ∧ s.HaltLegal ∧
  s.PtlLegal ∧ s.CidLegal ∧ s.ResetLegal

/-! ### The logical stream -/

/-- A byte's bits, bit 7 first (R54). -/
def byteBits (b : Byte) : List Bool := (List.range 8).map fun i => b.getLsbD (7 - i)

/-- The unsigned value of bits, the first one most significant (R54). -/
def bitsVal (l : List Bool) : Nat := l.foldl (fun v b => 2 * v + b.toNat) 0

/-- The bytes delivered from raw bytes after the raw history `h2`, `h1`: a 0x03 whose two raw bytes before it are 0x00
is left out (R56). -/
def unescape : Option Byte → Option Byte → List Byte → List Byte
  | _, _, [] => []
  | h2, h1, b :: rest =>
    if b = 0x03 ∧ h1 = some 0x00 ∧ h2 = some 0x00 then unescape h1 (some b) rest
    else b :: unescape h1 (some b) rest

/-- The raw byte fetched last, if the history holds one (R28). -/
def State.lastRaw (s : State) : Option Byte := if s.hv = 0 then none else some s.h1

/-- The raw byte fetched before it, if the history holds two (R28). -/
def State.lastRaw2 (s : State) : Option Byte := if s.hv = 2 then some s.h2 else none

/-- The raw bytes still to fetch, BYTEPOS to LEN - 1 (R50, R58). -/
def State.rawAhead (s : State) : List Byte :=
  (List.range (s.len.toNat - s.bytepos.toNat)).map fun i => (s.mem.read (s.bytepos.toNat + i)).getD 0

/-- Every raw byte still to fetch was written by the host since reset, so none is a draw (R49). -/
def State.aheadWritten (s : State) : Bool :=
  (List.range (s.len.toNat - s.bytepos.toNat)).all fun i => (s.mem.read (s.bytepos.toNat + i)).isSome

/-- The engine's reads have a meaning and are no draws: LEN <= IBUF_BYTES, and the bytes ahead are written. -/
abbrev State.Readable (s : State) : Prop := s.len.toNat ≤ s.ibufBytes ∧ s.aheadWritten = true

/-- The bits of CACHE not yet consumed: CACHE[CACHE_BITS-1:0], high bit first (R28). -/
def State.cacheAhead (s : State) : List Bool :=
  (List.range s.cacheBits.toNat).map fun i => s.cache.getLsbD (s.cacheBits.toNat - 1 - i)

/-- The logical stream from the cursor to the end of the delivered raw bytes, without pad bytes (R54, R56). -/
def State.upcoming (s : State) : List Bool :=
  s.cacheAhead ++ (unescape s.lastRaw2 s.lastRaw s.rawAhead).flatMap byteBits

/-- Bit `i` of the logical stream from the cursor on; past its end pad bits, 0 (R59). -/
def State.streamBit (s : State) (i : Nat) : Bool := s.upcoming.getD i false

/-- The value of the `n` stream bits from bit `off` on (R54). -/
def State.streamVal (s : State) (off n : Nat) : Nat := bitsVal ((List.range n).map fun i => s.streamBit (off + i))

/-- The next `n` bits can be consumed: in strict mode none needs a byte at or beyond LEN (R58), and with the budget on
none makes CONSUMED exceed 8 x LEN (R62). -/
abbrev State.CanConsume (s : State) (n : Nat) : Prop :=
  (s.strict = true → n ≤ s.upcoming.length) ∧ (s.budget = true → n ≤ 8 * s.len.toNat - s.consumed.toNat)

/-- Stream bit `j` is the first that cannot be consumed. -/
abbrev State.FailsAt (s : State) (j : Nat) : Prop := s.CanConsume j ∧ ¬ s.CanConsume (j + 1)

/-- ERRINFO.KIND of the fault at bit `j`: 1 when the budget check fails there, which comes first (R133). -/
def State.failKind (s : State) (j : Nat) : Bool :=
  s.budget && decide (8 * s.len.toNat < s.consumed.toNat + j + 1)

/-- The bytes delivered from the next `r` raw bytes (R56). -/
def State.delivered (s : State) (r : Nat) : List Byte := unescape s.lastRaw2 s.lastRaw (s.rawAhead.take r)

/-- How many more bytes must be delivered for `n` bits: none while CACHE has enough, one more for each 8 (R61). -/
def State.bytesFor (s : State) (n : Nat) : Nat := (n - s.cacheBits.toNat + 7) / 8

/-- `n` bits require exactly the next `r` raw bytes: no fewer deliver the bytes the bits need, and `r` do, or are all
that is left, pad bytes following (R61: no look-ahead). -/
def State.Requires (s : State) (n r : Nat) : Prop :=
  r ≤ s.rawAhead.length ∧ (s.bytesFor n ≤ (s.delivered r).length ∨ r = s.rawAhead.length) ∧
  ∀ r' < r, (s.delivered r').length < s.bytesFor n

/-- The history after `r` more raw bytes, dropped ones included: H1 the last, H2 the one before, HV their count up to
2 (R28, R58). -/
def State.HistoryAfter (s : State) (r : Nat) (t : State) : Prop :=
  (r = 0 → t.hv = s.hv ∧ t.h1 = s.h1 ∧ t.h2 = s.h2) ∧
  (0 < r → t.hv.toNat = min (s.hv.toNat + r) 2 ∧ t.h1 = s.rawAhead.getD (r - 1) 0 ∧
    t.h2 = if r = 1 then s.h1 else s.rawAhead.getD (r - 2) 0)

/-- `t`'s cursor is `s`'s after `n` bits for which `r` raw bytes were fetched: CACHE is the last byte delivered, a pad
byte 0x00 past the delivered raw bytes, and CACHE_BITS what is left of it (R61, R94). -/
def State.CursorAfter (s : State) (n r : Nat) (t : State) : Prop :=
  t.bytepos.toNat = s.bytepos.toNat + r ∧ s.HistoryAfter r t ∧
  t.cacheBits.toNat = s.cacheBits.toNat + 8 * s.bytesFor n - n ∧
  t.cache =
    if s.bytesFor n = 0 then s.cache else (s.delivered s.rawAhead.length).getD (s.bytesFor n - 1) 0x00

/-- `t`'s cursor is `s`'s moved over `n` stream bits: CONSUMED counts them, exactly the raw bytes they require have been
fetched, a pad byte was delivered if the raw bytes did not suffice, and the stream goes on where it was left
(R61, R94). -/
def State.Advanced (s : State) (n : Nat) (t : State) : Prop :=
  t.consumed = satAdd s.consumed n ∧
  t.padded = (s.padded || decide (s.upcoming.length < n)) ∧
  (∀ i, t.streamBit i = s.streamBit (n + i)) ∧
  (n ≤ s.upcoming.length → t.upcoming = s.upcoming.drop n) ∧
  t.aheadWritten = true ∧ s.bytepos.toNat ≤ t.bytepos.toNat ∧
  ∃ r, s.Requires n r ∧ s.CursorAfter n r t

/-- `t`'s cursor is where BufferExhausted at bit `j` leaves it: as after the `j` bits before it, but that a strict
past-end fetch (KIND 0) has fetched every raw byte, one dropped 0x03 beyond those required at most (R58, R129). -/
def State.CursorAtFault (s : State) (j : Nat) (t : State) : Prop :=
  ∃ r r', s.Requires j r ∧ s.CursorAfter j r' t ∧
    (r' = r ∨ (r' = r + 1 ∧ s.failKind j = false ∧ s.rawAhead.getD r 0 = 0x03)) ∧
    (s.failKind j = false → r' = s.rawAhead.length)

/-! ### What stays the same -/

/-- The host's side is unchanged: IBUF byte by byte, IBUF_BYTES, CTRL, LEN, the bus and what comes next. -/
def State.SameHostSide (s t : State) : Prop :=
  (∀ a, t.mem.read a = s.mem.read a) ∧ t.ibufBytes = s.ibufBytes ∧ t.strict = s.strict ∧ t.budget = s.budget ∧
  t.len = s.len ∧ t.rst = s.rst ∧ t.rdata = s.rdata ∧ t.inputs = s.inputs

/-- The PTL registers, CIDLEN, the CID buffer and CIDV are unchanged. -/
def State.SamePtl (s t : State) : Prop :=
  t.ptlGen = s.ptlGen ∧ t.ptlCompat = s.ptlCompat ∧ t.ptlConsLo = s.ptlConsLo ∧ t.ptlConsHi = s.ptlConsHi ∧
  t.ptlSub = s.ptlSub ∧ t.cidlen = s.cidlen ∧ t.cid = s.cid ∧ t.cidv = s.cidv

/-- The fault record is unchanged: HALTED, ERR, ERRINFO and ERRPOS. -/
def State.SameRecord (s t : State) : Prop :=
  t.halted = s.halted ∧ t.err = s.err ∧ t.errOp = s.errOp ∧ t.errKind = s.errKind ∧ t.errpos = s.errpos

/-- The cursor is unchanged: BYTEPOS, CURSOR and CONSUMED. -/
def State.SameCursor (s t : State) : Prop :=
  t.bytepos = s.bytepos ∧ t.cache = s.cache ∧ t.cacheBits = s.cacheBits ∧ t.hv = s.hv ∧ t.h1 = s.h1 ∧ t.h2 = s.h2 ∧
  t.consumed = s.consumed

/-- `t` is `s` after BufferExhausted taken by the command with OP `op` at stream bit `j` (R125, R128): bits before it
stay consumed, the cursor shows exactly them, and the command's final writes are not made (R129). -/
def State.ExhaustedAt (s : State) (op : BitVec 4) (j : Nat) (t : State) : Prop :=
  t.halted = true ∧ t.err = .bufferExhausted ∧ t.errOp = op ∧ t.errKind = s.failKind j ∧
  t.errpos = satAdd s.consumed j ∧ t.consumed = satAdd s.consumed j ∧
  t.padded = (s.padded || decide (s.upcoming.length < j)) ∧ s.CursorAtFault j t ∧ t.running = none ∧
  t.result = s.result ∧ t.ovr = s.ovr ∧ s.SamePtl t ∧ s.SameHostSide t

/-! ### Steps that start a parse over -/

/-- The next step is the engine's and runs INIT (R79, R90). -/
def State.runsInit (s : State) : Prop :=
  s.running = some 0x00000001 ∧ (s.inputs = [] ∨ ∃ rest, s.inputs = .engine :: rest)

/-- The next step asserts `rst`, keeps it asserted or releases it (R145). -/
def State.resets (s : State) : Prop := ∃ level rest, s.inputs = .rst level :: rest ∧ (level = true ∨ s.rst = true)

/-! ### Sequences of commands -/

/-- Commands one after another, stopping at the first stop of the model. -/
def execAll : List Instr → State → Host.Outcome State Fault Refusal
  | [], s => .next s
  | i :: rest, s =>
    match exec i s with
    | .next s' => execAll rest s'
    | .fault f => .fault f
    | .refused r => .refused r

/-- The delivered bytes of a buffer by the contract of §4.1 (R57): byte i is left out exactly when i >= 2, it is 0x03,
and the two bytes before it are 0x00. -/
def contractBytes (raw : List Byte) : List Byte :=
  ((List.range raw.length).filter fun i =>
      !(decide (2 ≤ i) && raw.getD i 0 == 0x03 && raw.getD (i - 1) 0 == 0x00 && raw.getD (i - 2) 0 == 0x00)).map
    fun i => raw.getD i 0

/-- The cursor as the document's pair (byte_index, bit_offset) over the delivered bytes (R94). -/
def State.cursorPair (s : State) : Nat × Nat :=
  let d := (s.consumed.toNat + s.cacheBits.toNat) / 8
  if s.cacheBits = 0 then (d, 0) else (d - 1, 8 - s.cacheBits.toNat)

/-! ### Fields, bounds and layouts the statements use -/

/-- The number of m sub-layers whose profile flag (`off` = 96) or level flag (`off` = 97) is 1 (R112, R115). -/
def State.flagCount (s : State) (off m : Nat) : Nat :=
  ((List.range m).filter fun i => s.streamBit (off + 2 * i)).length

/-- The bits PTL m consumes: 96 for m = 0, else 112 + 88 P + 8 L (R115). -/
def State.ptlBits (s : State) (m : Nat) : Nat :=
  if m = 0 then 96 else 112 + 88 * s.flagCount 96 m + 8 * s.flagCount 97 m

/-- Byte `i` of the structure, counted from its start (R108-R111). -/
def State.streamByte (s : State) (off : Nat) : Byte := BitVec.ofNat 8 (s.streamVal off 8)

/-- The codec-id the stream's fields give (R118). -/
def State.streamCodecId (s : State) : List Char :=
  formatCid (BitVec.ofNat 2 (s.streamVal 0 2)) (BitVec.ofNat 1 (s.streamVal 2 1)) (BitVec.ofNat 5 (s.streamVal 3 5))
    (s.streamByte 32 ++ s.streamByte 24 ++ s.streamByte 16 ++ s.streamByte 8)
    ((List.range 6).map fun i => s.streamByte (40 + 8 * i)) (s.streamByte 88)

/-- The number whose digits in `base` these characters are (R119). -/
def digitsValue (base : Nat) (l : List Char) : Nat :=
  l.foldl (fun v c => base * v + (if c.toNat < 58 then c.toNat - 48 else c.toNat - 87)) 0

/-- The bits a command may consume at most (R55). -/
def bitBound : Instr → Nat
  | .init => 0
  | .rdbits n => n.toNat
  | .skbits n => n.toNat
  | .rdue => 65
  | .ptl m => if m = 0 then 96 else 112 + 96 * m.toNat

/-- How many of the first `k` bytes of IBUF word j exist and have not been written since reset (R39, R49). -/
def State.unwrittenBefore (s : State) (j k : Nat) : Nat :=
  ((List.range k).filter fun i => decide (4 * j + i < s.ibufBytes) && (s.mem.read (4 * j + i)).isNone).length

/-- The bus offset of IBUF word j (R39). -/
def ibufOffset (j : Nat) : Offset := BitVec.ofNat 17 (0x10000 + 4 * j)

/-- What R14's registers hold for the host, by offset: built from the fields by shifts, CID word by word. -/
def registerMap (s : State) : List (Nat × Nat) :=
  [(0x000, 0x50544C01), (0x004, s.strict.toNat + 2 * s.budget.toNat),
    (0x008, 2 * s.halted.toNat + 16 * s.err.code.toNat + 256 * s.padded.toNat + 512 * s.ovr.toNat
      + 1024 * s.cidv.toNat),
    (0x00C, 0), (0x010, s.len.toNat), (0x014, s.result.toNat % 2 ^ 32), (0x018, s.result.toNat / 2 ^ 32),
    (0x01C, s.bytepos.toNat),
    (0x020, s.cache.toNat + 2 ^ 8 * s.cacheBits.toNat + 2 ^ 12 * s.hv.toNat + 2 ^ 16 * s.h1.toNat
      + 2 ^ 24 * s.h2.toNat),
    (0x024, s.consumed.toNat), (0x028, s.errOp.toNat + 16 * s.errKind.toNat), (0x02C, s.errpos.toNat),
    (0x030, s.ptlGen.toNat), (0x034, s.ptlCompat.toNat), (0x038, s.ptlConsLo.toNat), (0x03C, s.ptlConsHi.toNat),
    (0x040, s.ptlSub.toNat), (0x044, s.cidlen.toNat)] ++
  (List.range 10).map fun w =>
    (0x080 + 4 * w, (s.cid.getD (4 * w) 0).toNat + 2 ^ 8 * (s.cid.getD (4 * w + 1) 0).toNat
      + 2 ^ 16 * (s.cid.getD (4 * w + 2) 0).toNat + 2 ^ 24 * (s.cid.getD (4 * w + 3) 0).toNat)

/-- An aligned offset R14 does not list (R66). -/
def reservedOffset (ibufBytes : Nat) (a : Offset) : Prop :=
  (0x048 ≤ a.toNat ∧ a.toNat < 0x080) ∨ (0x0A8 ≤ a.toNat ∧ a.toNat < 0x10000) ∨ 0x10000 + ibufBytes ≤ a.toNat

end Sys2Proof.Machine
end

