-- ==== Sys2Proof/Certificates/Slice0/Obligations.lean ====
section
/-! DEFINITION. What is claimed of the model, for the provers: each statement's docstring names the rules of spec/ it
formalises. -/
open Sys2Proof Sys2Proof.Machine

/-! ### Encoding and decoding -/

/-- R77-R82: Decode of an encoded well-formed command is that command, every operand value included. -/
def Obligations.DecodeOfEncodeIsTheCommand : Prop :=
  ∀ i : Instr, i.wellFormed = true → decode (encode i) = .ok i

/-- R77-R82: a word decodes to a command only if it is that command's one word, with its operand in range. -/
def Obligations.OnlyItsOwnWordDecodesToACommand : Prop :=
  ∀ (w : Word) (i : Instr), decode w = .ok i → i.wellFormed = true ∧ encode i = w

/-- R83: the words Decode refuses are exactly these. -/
def Obligations.IllegalWordsAreExactlyThese : Prop :=
  ∀ w : Word, (∃ e, decode w = .error e) ↔
    (w >>> 10 ≠ 0 ∨ opField w = 0x0 ∨ 0x6 ≤ (opField w).toNat ∨
      ((opField w = 0x1 ∨ opField w = 0x4) ∧ argField w ≠ 0) ∨
      ((opField w = 0x2 ∨ opField w = 0x3) ∧ (argField w = 0 ∨ 32 < (argField w).toNat)) ∨
      (opField w = 0x5 ∧ argField w >>> 3 ≠ 0))

/-- R79-R82: words the rules write out, and the commands they stand for. -/
def Obligations.WordsWrittenInTheSpecDecode : Prop :=
  decode 0x00000001 = .ok .init ∧ decode 0x00000012 = .ok (.rdbits 1) ∧ decode 0x00000082 = .ok (.rdbits 8) ∧
  decode 0x00000202 = .ok (.rdbits 32) ∧ decode 0x00000103 = .ok (.skbits 16) ∧ decode 0x00000004 = .ok .rdue ∧
  decode 0x00000005 = .ok (.ptl 0) ∧ decode 0x00000015 = .ok (.ptl 1) ∧ decode 0x00000075 = .ok (.ptl 7)

/-! ### Steps -/

/-- R76: when the accepted word decodes to a command and the engine moves next, the step is that command's effect, on
the state with the engine's turn taken off the inputs; with no input left the engine moves (log entry 1). -/
def Obligations.EngineTurnRunsTheDecodedCommand : Prop :=
  ∀ (s : State) (w : Word) (i : Instr), s.running = some w → decode w = .ok i →
    (∀ rest, s.inputs = .engine :: rest → step s = exec i { s with inputs := rest }) ∧
    (s.inputs = [] → step s = exec i s)

/-- R127, R128: an accepted illegal word raises IllegalCommand: the record is written with OP = w[3:0] and ERRPOS =
CONSUMED, BUSY is cleared, and nothing else changes. -/
def Obligations.IllegalWordTakesIllegalCommand : Prop :=
  ∀ (s : State) (w : Word) (e : IllegalWord) (rest : List Input), s.running = some w → decode w = .error e →
    s.inputs = .engine :: rest →
    step s = .next { s with
      inputs := rest, running := none, halted := true, err := .illegalCommand, errOp := w.extractLsb' 0 4,
      errKind := false, errpos := s.consumed }

/-- R143: an idle block with nothing asked of it keeps all its state, and so does an engine's turn with no command to
run. That a step with no input left answers the same state is log entry 16 (DEDUCED), and that the engine's turn is an
input log entry 1 (DESIGN CHOICE). -/
def Obligations.IdleBlockKeepsItsState : Prop :=
  ∀ s : State, s.running = none →
    (s.inputs = [] → step s = .next s) ∧
    (∀ rest, s.inputs = .engine :: rest → step s = .next { s with inputs := rest })

/-! ### INIT -/

/-- R48, R90: INIT sets the initial parse state and clears BUSY; CTRL, LEN, IBUF and everything else stay. -/
def Obligations.InitSetsTheInitialParseState : Prop :=
  ∀ s : State, ∃ t, exec .init s = .next t ∧
    t.bytepos = 0 ∧ t.cache = 0 ∧ t.cacheBits = 0 ∧ t.hv = 0 ∧ t.h1 = 0 ∧ t.h2 = 0 ∧ t.consumed = 0 ∧
    t.result = 0 ∧ t.halted = false ∧ t.err = .none ∧ t.padded = false ∧ t.ovr = false ∧ t.cidv = false ∧
    t.errOp = 0 ∧ t.errKind = false ∧ t.errpos = 0 ∧ t.ptlGen = 0 ∧ t.ptlCompat = 0 ∧ t.ptlConsLo = 0 ∧
    t.ptlConsHi = 0 ∧ t.ptlSub = 0 ∧ t.cidlen = 0 ∧ t.cid = List.replicate 40 0 ∧ t.running = none ∧
    s.SameHostSide t ∧ t.draws = s.draws

/-- R90, R91: two INITs in a row leave the same state as one, and a first INIT after reset changes nothing. -/
def Obligations.InitAgainChangesNothing : Prop :=
  (∀ s t : State, exec .init s = .next t → exec .init t = .next t) ∧ exec .init State.reset = .next State.reset

/-! ### RDBITS and SKBITS -/

/-- R92, R54: when its n bits can be consumed, RDBITS n completes, RESULT is their value with the first bit most
significant, the cursor moves over them, and nothing else changes (bytes ahead written; no draws). -/
def Obligations.RdbitsReturnsTheNextStreamBits : Prop :=
  ∀ (s : State) (n : BitVec 6), (Instr.rdbits n).wellFormed = true → s.Readable → s.CanConsume n.toNat →
    ∃ t, exec (.rdbits n) s = .next t ∧
      t.result.toNat = s.streamVal 0 n.toNat ∧ s.Advanced n.toNat t ∧ t.running = none ∧
      s.SameRecord t ∧ s.SamePtl t ∧ t.ovr = s.ovr ∧ s.SameHostSide t

/-- R95: when its n bits can be consumed, SKBITS n completes and moves the cursor over them; RESULT and everything
else stay. -/
def Obligations.SkbitsMovesOverTheNextStreamBits : Prop :=
  ∀ (s : State) (n : BitVec 6), (Instr.skbits n).wellFormed = true → s.Readable → s.CanConsume n.toNat →
    ∃ t, exec (.skbits n) s = .next t ∧
      t.result = s.result ∧ s.Advanced n.toNat t ∧ t.running = none ∧
      s.SameRecord t ∧ s.SamePtl t ∧ t.ovr = s.ovr ∧ s.SameHostSide t

/-- R95: from the same state SKBITS n does exactly what RDBITS n does, at the same bits, but that RESULT is not written
and that a fault's record names SKBITS. -/
def Obligations.SkbitsIsRdbitsWithoutTheResult : Prop :=
  ∀ (s t : State) (n : BitVec 6), s.halted = false → exec (.rdbits n) s = .next t →
    exec (.skbits n) s =
      .next { t with result := s.result, errOp := if t.halted then 0x3 else t.errOp }

/-- R96, R126: in permissive mode with the budget off RDBITS and SKBITS complete in every state, whatever IBUF holds,
written or not: no fault is taken and exactly n bits are counted. -/
def Obligations.PermissiveReadsAlwaysComplete : Prop :=
  ∀ (s : State) (n : BitVec 6), s.strict = false → s.budget = false → s.len.toNat ≤ s.ibufBytes →
    (∃ t, exec (.rdbits n) s = .next t ∧ s.SameRecord t ∧ t.running = none ∧ t.result.toNat < 2 ^ n.toNat ∧
      t.consumed = satAdd s.consumed n.toNat) ∧
    (∃ t, exec (.skbits n) s = .next t ∧ s.SameRecord t ∧ t.running = none ∧ t.result = s.result ∧
      t.consumed = satAdd s.consumed n.toNat)

/-- R96, R125, R129, R133: when bit j < n is the first that cannot be consumed, RDBITS n and SKBITS n take
BufferExhausted there, KIND 1 when the budget check fails at that bit; the cursor shows the j bits before it and no more, save a
dropped 0x03 fetched just before the end. -/
def Obligations.ReadsTakeBufferExhaustedAtTheFirstMissingBit : Prop :=
  ∀ (s : State) (n : BitVec 6) (j : Nat), s.Readable → j < n.toNat → s.FailsAt j →
    (∃ t, exec (.rdbits n) s = .next t ∧ s.ExhaustedAt 0x2 j t) ∧
    (∃ t, exec (.skbits n) s = .next t ∧ s.ExhaustedAt 0x3 j t)

/-- R93: RDBITS a then RDBITS b leave the same state as RDBITS (a+b), and its value is (v1 << b) | v2. -/
def Obligations.RdbitsComposes : Prop :=
  ∀ (s t1 t2 : State) (a b : BitVec 6), 1 ≤ a.toNat → 1 ≤ b.toNat → a.toNat + b.toNat ≤ 32 →
    exec (.rdbits a) s = .next t1 → exec (.rdbits b) t1 = .next t2 → t2.halted = false →
    exec (.rdbits (a + b)) s = .next { t2 with result := (t1.result <<< b.toNat) ||| t2.result }

/-- R93: the state after skips depends only on how many bits they skip together, not on how they are grouped. -/
def Obligations.GroupingOfSkipsIsUnobservable : Prop :=
  ∀ (s t u : State) (ns ms : List (BitVec 6)), s.running = none →
    (ns.map fun n => n.toNat).sum = (ms.map fun n => n.toNat).sum →
    execAll (ns.map .skbits) s = .next t → execAll (ms.map .skbits) s = .next u →
    t.halted = false → u.halted = false → t = u

/-- R87: the expansion of SKIPL n is made of well-formed SKBITS commands that skip n bits together, and from a state
in which n bits can be consumed it completes with the cursor moved over n bits. -/
def Obligations.SkiplSkipsItsBits : Prop :=
  ∀ (s : State) (n : Nat), 1 ≤ n → s.running = none → s.Readable → s.CanConsume n →
    (∀ i ∈ skipl n, i.wellFormed = true ∧ i.op = 0x3) ∧
    ∃ t, execAll (skipl n) s = .next t ∧ s.Advanced n t ∧ t.result = s.result ∧ s.SameRecord t

/-! ### RDUE -/

/-- R100, R101, R104: k <= 32 zeros, a one and k suffix bits decode to 2^k - 1 + suffix, consuming 2k + 1 bits; the
value v is in [2^k - 1, 2^(k+1) - 2], so k = floor(log2(v + 1)) and it has no other code. -/
def Obligations.RdueDecodesExpGolomb : Prop :=
  ∀ (s : State) (k : Nat), s.Readable → k ≤ 32 → (∀ i < k, s.streamBit i = false) → s.streamBit k = true →
    s.CanConsume (2 * k + 1) →
    ∃ t, exec .rdue s = .next t ∧
      t.result.toNat = 2 ^ k - 1 + s.streamVal (k + 1) k ∧ 2 ^ k - 1 ≤ t.result.toNat ∧
      t.result.toNat ≤ 2 ^ (k + 1) - 2 ∧ k = Nat.log2 (t.result.toNat + 1) ∧
      s.Advanced (2 * k + 1) t ∧ t.running = none ∧
      s.SameRecord t ∧ s.SamePtl t ∧ t.ovr = s.ovr ∧ s.SameHostSide t

/-- R101, R102: every integer v in [0, 2^33 - 2] is returned exactly from its own code, k zeros and then v + 1 in
k + 1 bits, where k = floor(log2(v + 1)). -/
def Obligations.RdueReturnsEveryValueFromItsCode : Prop :=
  ∀ (s : State) (v : Nat), s.Readable → v ≤ 2 ^ 33 - 2 →
    s.streamVal 0 (2 * Nat.log2 (v + 1) + 1) = v + 1 → s.CanConsume (2 * Nat.log2 (v + 1) + 1) →
    ∃ t, exec .rdue s = .next t ∧ t.result.toNat = v ∧ t.halted = s.halted ∧
      t.consumed = satAdd s.consumed (2 * Nat.log2 (v + 1) + 1)

/-- R100, R104, R125: 33 zeros that can be consumed raise MalformedExpGolombCode, the 33rd consumed; RESULT stays. -/
def Obligations.RdueTakesMalformedAtTheThirtyThirdZero : Prop :=
  ∀ s : State, s.Readable → (∀ i < 33, s.streamBit i = false) → s.CanConsume 33 →
    ∃ t, exec .rdue s = .next t ∧ t.halted = true ∧ t.err = .malformedExpGolombCode ∧ t.errOp = 0x4 ∧
      t.errKind = false ∧ t.errpos = satAdd s.consumed 33 ∧ s.Advanced 33 t ∧ t.running = none ∧
      t.result = s.result ∧ t.ovr = s.ovr ∧ s.SamePtl t ∧ s.SameHostSide t

/-- R105, R133: a bit of the zero run (up to the 33rd zero), of the terminating 1 or of the suffix that cannot be
consumed takes BufferExhausted there, before the cap check. -/
def Obligations.RdueTakesBufferExhaustedAtTheFirstMissingBit : Prop :=
  ∀ (s : State) (j : Nat), s.Readable → s.FailsAt j →
    ((j ≤ 32 ∧ ∀ i < j, s.streamBit i = false) ∨
      (∃ k, k ≤ 32 ∧ k < j ∧ j < 2 * k + 1 ∧ (∀ i < k, s.streamBit i = false) ∧ s.streamBit k = true)) →
    ∃ t, exec .rdue s = .next t ∧ s.ExhaustedAt 0x4 j t

/-- R103, R55, R104: in permissive mode with the budget off RDUE ends in every state: it completes having counted an
odd number of bits up to 65, or takes MalformedExpGolombCode having counted 33. -/
def Obligations.PermissiveRdueAlwaysEnds : Prop :=
  ∀ s : State, s.strict = false → s.budget = false → s.len.toNat ≤ s.ibufBytes →
    ∃ t, exec .rdue s = .next t ∧ t.running = none ∧
      ((s.SameRecord t ∧ ∃ k, k ≤ 32 ∧ t.consumed = satAdd s.consumed (2 * k + 1) ∧
          2 ^ k - 1 ≤ t.result.toNat ∧ t.result.toNat ≤ 2 ^ (k + 1) - 2) ∨
        (t.err = .malformedExpGolombCode ∧ t.halted = true ∧ t.consumed = satAdd s.consumed 33 ∧
          t.errpos = t.consumed ∧ t.result = s.result))

/-! ### PTL -/

/-- R107-R115, R32-R38: when its bits can be consumed PTL m completes: each register field is the stream field at its
place in the structure, the codec-id is formatted from them, the cursor moves over exactly R115's bits, RESULT and
everything else stay. -/
def Obligations.PtlParsesTheStructureAndFormatsTheCodecId : Prop :=
  ∀ (s : State) (m : BitVec 3), s.Readable → s.CanConsume (s.ptlBits m.toNat) →
    ∃ t, exec (.ptl m) s = .next t ∧
      (t.ptlGen.extractLsb' 0 2).toNat = s.streamVal 0 2 ∧ (t.ptlGen.extractLsb' 2 1).toNat = s.streamVal 2 1 ∧
      (t.ptlGen.extractLsb' 3 5).toNat = s.streamVal 3 5 ∧ (t.ptlGen.extractLsb' 8 8).toNat = s.streamVal 88 8 ∧
      t.ptlGen.extractLsb' 16 3 = m ∧ t.ptlGen.extractLsb' 19 13 = 0 ∧
      (∀ j < 4, (t.ptlCompat.extractLsb' (8 * j) 8).toNat = s.streamVal (8 + 8 * j) 8) ∧
      (∀ i < 4, (t.ptlConsLo.extractLsb' (8 * i) 8).toNat = s.streamVal (40 + 8 * i) 8) ∧
      (∀ i < 2, (t.ptlConsHi.extractLsb' (8 * i) 8).toNat = s.streamVal (72 + 8 * i) 8) ∧
      t.ptlConsHi.extractLsb' 16 16 = 0 ∧
      (∀ i < 32, t.ptlSub.getLsbD i =
        if i < m.toNat then s.streamBit (96 + 2 * i)
        else if 8 ≤ i ∧ i < 8 + m.toNat then s.streamBit (97 + 2 * (i - 8)) else false) ∧
      t.cidlen.toNat = s.streamCodecId.length ∧ t.cid.length = 40 ∧
      (∀ j < 40, t.cid.getD j 0 = (s.streamCodecId.map ascii).getD j 0x00) ∧ t.cidv = true ∧
      s.Advanced (s.ptlBits m.toNat) t ∧ t.running = none ∧ t.result = s.result ∧
      s.SameRecord t ∧ t.ovr = s.ovr ∧ s.SameHostSide t

/-- R117: when a bit of the structure cannot be consumed PTL m takes BufferExhausted at the first such bit and writes
none of the PTL registers, CIDLEN, the CID buffer and CIDV. -/
def Obligations.FaultingPtlWritesNoPtlRegister : Prop :=
  ∀ (s : State) (m : BitVec 3) (j : Nat), s.Readable → s.FailsAt j → j < s.ptlBits m.toNat →
    ∃ t, exec (.ptl m) s = .next t ∧ s.ExhaustedAt 0x5 j t

/-- R116: the skips of step 7 are one run of 88 P + 8 L discarded bits, so their order cannot be observed: same state
after them, same fault at the same bit. -/
def Obligations.SubLayerSkipsAreOneRunOfBits : Prop :=
  ∀ (s : State) (l : List (BitVec 1 × BitVec 1)),
    skipSubLayers l s =
      (readBits (88 * (l.filter fun p => p.1 = 1).length + 8 * (l.filter fun p => p.2 = 1).length) s).andThen
        fun _ t => .ok () t

/-- R55, R115: in permissive mode with the budget off PTL m completes in every state, whatever IBUF holds, having
counted 96 bits for m = 0 and 112 to 112 + 96 m bits else. -/
def Obligations.PermissivePtlAlwaysCompletes : Prop :=
  ∀ (s : State) (m : BitVec 3), s.strict = false → s.budget = false → s.len.toNat ≤ s.ibufBytes →
    ∃ t, exec (.ptl m) s = .next t ∧ s.SameRecord t ∧ t.running = none ∧ t.cidv = true ∧ t.result = s.result ∧
      t.ptlGen.extractLsb' 16 3 = m ∧
      ∃ c, t.consumed = satAdd s.consumed c ∧
        ((m = 0 ∧ c = 96) ∨ (m ≠ 0 ∧ 112 ≤ c ∧ c ≤ 112 + 96 * m.toNat))

/-! ### The codec-id -/

/-- R121: the codec-id has 11 to 40 characters, both reached, and CIDLEN after a completed PTL is in 11..40. -/
def Obligations.CodecIdFitsTheCidBuffer : Prop :=
  (∀ (ps : BitVec 2) (tf : BitVec 1) (idc : BitVec 5) (compat : Word) (cons : List Byte) (lvl : Byte),
    cons.length = 6 →
    11 ≤ (formatCid ps tf idc compat cons lvl).length ∧ (formatCid ps tf idc compat cons lvl).length ≤ 40) ∧
  formatCid 0 0 0 0 (List.replicate 6 0) 0 = ['h', 'v', 'c', '1', '.', '0', '.', '0', '.', 'L', '0'] ∧
  formatCid 3 1 31 0xFFFFFFFF (List.replicate 6 0xFF) 255 =
    ['h', 'v', 'c', '1', '.', 'C', '3', '1', '.'] ++ List.replicate 8 'f' ++ ['.', 'H', '2', '5', '5'] ++
      (List.replicate 6 ['.', 'f', 'f']).flatten ∧
  (formatCid 3 1 31 0xFFFFFFFF (List.replicate 6 0xFF) 255).length = 40 ∧
  ∀ (s t : State) (m : BitVec 3), s.halted = false → exec (.ptl m) s = .next t → t.halted = false →
    11 ≤ t.cidlen.toNat ∧ t.cidlen.toNat ≤ 40

/-- R119: Dec and Hex write the number's digits, 0-9 and lowercase a-f, with no leading zero, and "0" for 0; so Dec of a
5-bit and an 8-bit number has 1-2 and 1-3 characters, Hex of a 32-bit and an 8-bit one 1-8 and 1-2. -/
def Obligations.DecAndHexWriteTheNumberWithoutLeadingZeros : Prop :=
  ∀ v : Nat,
    (digitsValue 10 (dec v) = v ∧ (∀ c ∈ dec v, 48 ≤ c.toNat ∧ c.toNat ≤ 57) ∧ dec 0 = ['0'] ∧
      (0 < v → (dec v).head? ≠ some '0' ∧ dec v ≠ [])) ∧
    (digitsValue 16 (hex v) = v ∧
      (∀ c ∈ hex v, (48 ≤ c.toNat ∧ c.toNat ≤ 57) ∨ (97 ≤ c.toNat ∧ c.toNat ≤ 102)) ∧ hex 0 = ['0'] ∧
      (0 < v → (hex v).head? ≠ some '0' ∧ hex v ≠ [])) ∧
    1 ≤ (dec v).length ∧ (v < 2 ^ 5 → (dec v).length ≤ 2) ∧ (v < 2 ^ 8 → (dec v).length ≤ 3) ∧
    1 ≤ (hex v).length ∧ (v < 2 ^ 32 → (hex v).length ≤ 8) ∧ (v < 2 ^ 8 → (hex v).length ≤ 2)

/-- R122: no token if all constraint bytes are 0; else the tokens are ".hex" of every byte from the highest nonzero
index h down to index 0, zero bytes included: 1 + h tokens. The rule's example is the last clause. -/
def Obligations.ConstraintTokensStartAtTheHighestNonzeroByte : Prop :=
  (∀ cons : List Byte,
    ((∀ c ∈ cons, c = 0) → constraintTokens cons = []) ∧
    (∀ h, h < cons.length → cons.getD h 0 ≠ 0 → (∀ i, h < i → cons.getD i 0 = 0) →
      constraintTokens cons =
        ((List.range (h + 1)).map fun i => '.' :: hex (cons.getD (h - i) 0).toNat).flatten)) ∧
  constraintTokens [0x00, 0x05, 0x00, 0x0A, 0x00, 0x00] = ['.', 'a', '.', '0', '.', '5', '.', '0']

/-- R123: the only characters of a codec-id, and its first five bytes. -/
def Obligations.CodecIdUsesOnlyTheListedCharacters : Prop :=
  ∀ (ps : BitVec 2) (tf : BitVec 1) (idc : BitVec 5) (compat : Word) (cons : List Byte) (lvl : Byte),
    ((formatCid ps tf idc compat cons lvl).map ascii).take 5 = [0x68, 0x76, 0x63, 0x31, 0x2E] ∧
    ∀ c ∈ (formatCid ps tf idc compat cons lvl).map ascii,
      c ∈ [0x2E, 0x30, 0x31, 0x32, 0x33, 0x34, 0x35, 0x36, 0x37, 0x38, 0x39, 0x41, 0x42, 0x43, 0x48, 0x4C,
        0x61, 0x62, 0x63, 0x64, 0x65, 0x66, 0x68, 0x76]

/-! ### The emulation-prevention contract -/

/-- R57, R42, R92: from the initial parse state, over a written buffer, in permissive mode with the budget off, any
skips of c bits together and then RDBITS n return bits c to c + n - 1 of the buffer with the 0x03 of every
00 00 03 deleted, zero bits following: no bit of a deleted byte is ever returned. -/
def Obligations.CommandsReadTheBufferWithEscapesDeleted : Prop :=
  ∀ (s : State) (ns : List (BitVec 6)) (n : BitVec 6), s.Readable → s.strict = false → s.budget = false →
    s.bytepos = 0 → s.cacheBits = 0 → s.hv = 0 → n.toNat ≤ 32 →
    ∃ t u, execAll (ns.map .skbits) s = .next t ∧ exec (.rdbits n) t = .next u ∧
      u.result.toNat = bitsVal ((List.range n.toNat).map fun i =>
        ((contractBytes s.rawAhead).flatMap byteBits).getD ((ns.map fun k => k.toNat).sum + i) false)

/-- R60: one FetchDelivered takes at most two raw bytes and never a byte at or beyond LEN; after a drop H1 = 0x03, so
the next raw byte is not dropped: the second raw byte taken is the byte delivered, or the buffer end is met. -/
def Obligations.FetchTakesAtMostTwoRawBytes : Prop :=
  ∀ s : State,
    (∀ b t, fetchDelivered s = .ok b t → s.bytepos.toNat ≤ t.bytepos.toNat ∧ t.bytepos.toNat ≤ s.bytepos.toNat + 2 ∧
      t.bytepos.toNat ≤ max s.bytepos.toNat s.len.toNat ∧
      (t.bytepos.toNat = s.bytepos.toNat + 2 → b = t.h1 ∧ t.h2 = 0x03 ∧ t.padded = s.padded)) ∧
    (∀ e t, fetchDelivered s = .raise e t → e = .strictEnd ∧ s.strict = true ∧
      s.bytepos.toNat ≤ t.bytepos.toNat ∧ t.bytepos.toNat ≤ s.bytepos.toNat + 1 ∧ t.padded = s.padded) ∧
    (∀ b b' : Byte, s.drops b = true → (s.takeRaw b).h1 = 0x03 ∧ (s.takeRaw b).drops b' = false)

/-- R49: an IBUF byte the host has not written since reset is delivered as a draw; the statement holds for every value
of the draw counter and says nothing of the draw's value. -/
def Obligations.UnwrittenByteIsDelivered : Prop :=
  ∀ s : State, s.bytepos.toNat < s.len.toNat → s.len.toNat ≤ s.ibufBytes → s.mem.read s.bytepos.toNat = none →
    s.budget = false → s.cacheBits = 0 → s.lastRaw ≠ some 0x00 →
    ∃ t, exec (.rdbits 8) s = .next t ∧ t.result = (Config.freeByte s.draws).setWidth 64 ∧
      t.draws = s.draws + 1 ∧ t.bytepos = s.bytepos + 1 ∧ s.SameRecord t

/-! ### Every command: frames, faults, bounds -/

/-- R43, R12, R26, R128: a command other than INIT, completing or faulting, leaves IBUF, CTRL, LEN, the bus and OVR;
only RDBITS and RDUE write RESULT; only PTL writes the PTL registers, CIDLEN, CID and CIDV; BUSY is 0 after it. -/
def Obligations.CommandFrame : Prop :=
  ∀ (i : Instr) (s t : State), i ≠ .init → exec i s = .next t →
    s.SameHostSide t ∧ t.ovr = s.ovr ∧ t.running = none ∧
    (i.op = 0x3 ∨ i.op = 0x5 → t.result = s.result) ∧ (i.op ≠ 0x5 → s.SamePtl t) ∧
    (s.halted = false → t.halted = false → s.SameRecord t)

/-- R128, R129, R144: a command that faults records its OP and CONSUMED, and leaves RESULT, the PTL registers, CIDLEN,
the CID buffer and CIDV. -/
def Obligations.FaultingCommandMakesNoFinalWrite : Prop :=
  ∀ (i : Instr) (s t : State), s.halted = false → exec i s = .next t → t.halted = true →
    t.err ≠ .none ∧ t.err ≠ .illegalCommand ∧ t.errOp = i.op ∧ t.errpos = t.consumed ∧ t.running = none ∧
    t.result = s.result ∧ s.SamePtl t ∧ s.SameHostSide t

/-- R125, R133, R126: which command raises what. INIT raises nothing, only RDUE raises MalformedExpGolombCode, KIND 1
comes only with CTRL.BUDGET = 1 and KIND 0 of BufferExhausted only in strict mode. -/
def Obligations.ErrorsComeOnlyFromTheCommandsThatRaiseThem : Prop :=
  ∀ (i : Instr) (s t : State), s.halted = false → exec i s = .next t → t.halted = true →
    i ≠ .init ∧ (t.err = .malformedExpGolombCode → i = .rdue ∧ t.errKind = false) ∧
    (t.errKind = true → s.budget = true ∧ t.err = .bufferExhausted) ∧
    (t.err = .bufferExhausted → t.errKind = false → s.strict = true)

/-- R135: STATUS after a fault is 0x12, 0x22 or 0x32 by the error, with PADDED, OVR and CIDV as they are. -/
def Obligations.StatusWordAfterAFault : Prop :=
  ∀ (w : Word) (s t : State), s.halted = false → runWord w s = .next t → t.halted = true →
    statusWord t =
      (match t.err with
        | .bufferExhausted => 0x00000012 | .malformedExpGolombCode => 0x00000022
        | .illegalCommand => 0x00000032 | .none => 0) |||
      ((BitVec.ofBool t.padded).setWidth 32 <<< 8) ||| ((BitVec.ofBool s.ovr).setWidth 32 <<< 9) |||
      ((BitVec.ofBool s.cidv).setWidth 32 <<< 10)

/-- R55, R159: no command consumes more bits than its bound, completing or faulting. -/
def Obligations.EveryCommandConsumesBoundedBits : Prop :=
  ∀ (i : Instr) (s t : State), exec i s = .next t → t.consumed.toNat ≤ s.consumed.toNat + bitBound i

/-- R41, R13: the logical position never moves backwards: a step that neither runs INIT nor resets the block decreases
neither CONSUMED nor BYTEPOS, accesses made while an accepted INIT still waits included. -/
def Obligations.PositionNeverMovesBackwards : Prop :=
  ∀ s t : State, step s = .next t → ¬ s.runsInit → ¬ s.resets →
    s.consumed.toNat ≤ t.consumed.toNat ∧ s.bytepos.toNat ≤ t.bytepos.toNat

/-- R43, R19, R132: PADDED, OVR, CIDV and the fault record are cleared only by the step that runs INIT and by reset, and
the record of a first fault is never overwritten (from a state the block can be in). -/
def Obligations.StickyFlagsAndFaultRecordStay : Prop :=
  ∀ s t : State, s.Inv → step s = .next t → ¬ s.runsInit → ¬ s.resets →
    (s.padded = true → t.padded = true) ∧ (s.ovr = true → t.ovr = true) ∧ (s.cidv = true → t.cidv = true) ∧
    (s.halted = true → s.SameRecord t ∧ s.SameCursor t ∧ t.result = s.result ∧ s.SamePtl t)

/-- R70, R155, R50: a command reads only IBUF bytes at index >= BYTEPOS and < LEN: changing any other byte changes
nothing of what a command does, but that byte itself. -/
def Obligations.BytesAlreadyFetchedAreNotReadAgain : Prop :=
  ∀ (i : Instr) (s t : State) (a : Nat) (v : Byte), a < s.bytepos.toNat ∨ s.len.toNat ≤ a →
    exec i s = .next t →
    exec i { s with mem := s.mem.write a v } = .next { t with mem := t.mem.write a v }

/-- R94: the document's pair (byte_index, bit_offset) is CONSUMED divided by 8, while CONSUMED is not saturated. -/
def Obligations.CursorPairIsConsumedByEight : Prop :=
  ∀ s : State, s.Inv → s.consumed ≠ 0xFFFFFFFF → s.cursorPair = (s.consumed.toNat / 8, s.consumed.toNat % 8)

/-! ### The host's accesses -/

/-- R16: a CTRL write made while idle takes bits 0 and 1 and changes nothing else. -/
def Obligations.CtrlWriteTakesItsTwoBits : Prop :=
  ∀ (s : State) (v : Word) (rest : List Input), s.running = none → s.rst = false →
    s.inputs = .access (.write 32 0x004 v) :: rest →
    step s = .next { s with inputs := rest, strict := v.getLsbD 0, budget := v.getLsbD 1 }

/-- R25, R156: a LEN write made while idle stores min(v[15:0], IBUF_BYTES) and changes nothing else. -/
def Obligations.LenWriteStoresTheMinimum : Prop :=
  ∀ (s : State) (v : Word) (rest : List Input), s.running = none → s.rst = false →
    s.inputs = .access (.write 32 0x010 v) :: rest →
    ∃ t, step s = .next t ∧ t.len.toNat = min (v.toNat % 2 ^ 16) s.ibufBytes ∧
      t = { s with inputs := rest, len := t.len }

/-- R52, R53: a write of IBUF word j made while idle sets IBUF[4j+k] to bits 8k+7:8k for the k with 4j+k < IBUF_BYTES,
and changes no other byte and nothing else. -/
def Obligations.IbufWriteSetsItsBytes : Prop :=
  ∀ (s : State) (j : Nat) (v : Word) (rest : List Input), s.ParameterLegal → s.running = none → s.rst = false →
    4 * j < s.ibufBytes → s.inputs = .access (.write 32 (ibufOffset j) v) :: rest →
    ∃ t, step s = .next t ∧
      (∀ k < 4, 4 * j + k < s.ibufBytes → t.mem.read (4 * j + k) = some (v.extractLsb' (8 * k) 8)) ∧
      (∀ a, (a < 4 * j ∨ 4 * j + 4 ≤ a ∨ s.ibufBytes ≤ a) → t.mem.read a = s.mem.read a) ∧
      t = { s with inputs := rest, mem := t.mem }

/-- R49, R52, R53, R65: a read of IBUF word j made while idle returns the bytes the host wrote and 0 for an index beyond
IBUF, and changes nothing but `rdata`; where a byte of the word has not been written, it is a free value, taken at the
draw counter from the lowest index up, and the counter moves too (log entries 2, 6 and 10). The statement holds for
every value of the counter. -/
def Obligations.IbufReadReturnsItsBytes : Prop :=
  ∀ (s : State) (j : Nat) (rest : List Input), s.ParameterLegal → s.running = none →
    4 * j < s.ibufBytes → s.inputs = .access (.read 32 (ibufOffset j)) :: rest →
    (∀ b : Nat → Byte,
      (∀ k < 4, if 4 * j + k < s.ibufBytes then s.mem.read (4 * j + k) = some (b k) else b k = 0) →
      step s = .next { s with inputs := rest, rdata := b 3 ++ b 2 ++ b 1 ++ b 0 }) ∧
    ∃ t, step s = .next t ∧
      t = { s with inputs := rest, rdata := t.rdata, draws := s.draws + s.unwrittenBefore j 4 } ∧
      ∀ k < 4, t.rdata.extractLsb' (8 * k) 8 =
        if 4 * j + k < s.ibufBytes then
          (s.mem.read (4 * j + k)).getD (Config.freeByte (s.draws + s.unwrittenBefore j k))
        else 0

/-- R14-R38, R65: a read of a listed offset made while idle returns the register as its rule lays it out, and changes
nothing but `rdata`. -/
def Obligations.IdleReadsFollowTheRegisterMap : Prop :=
  ∀ (s : State) (rest : List Input), s.running = none → ∀ r ∈ registerMap s,
    s.inputs = .access (.read 32 (BitVec.ofNat 17 r.1)) :: rest →
    step s = .next { s with inputs := rest, rdata := BitVec.ofNat 32 r.2 }

/-- R14, R66: a reserved offset reads 0 at any time and ignores writes at any time; a write to a read-only register
is ignored at any time; nothing changes but `rdata` of the read. -/
def Obligations.ReservedAndReadOnlyOffsetsIgnoreWrites : Prop :=
  ∀ (s : State) (a : Offset) (v : Word) (rest : List Input), a.toNat % 4 = 0 →
    (reservedOffset s.ibufBytes a → s.inputs = .access (.read 32 a) :: rest →
      step s = .next { s with inputs := rest, rdata := 0 }) ∧
    (reservedOffset s.ibufBytes a ∨ a.toNat = 0x000 ∨ a.toNat = 0x008 ∨ (0x014 ≤ a.toNat ∧ a.toNat ≤ 0x044) ∨
        (0x080 ≤ a.toNat ∧ a.toNat < 0x0A8) →
      s.inputs = .access (.write 32 a v) :: rest → step s = .next { s with inputs := rest })

/-- R76, R18, R131: a CMD write made while idle is accepted (BUSY <- 1) when not halted or the word is exactly INIT;
else it is dropped with no change. -/
def Obligations.CmdWriteIsAcceptedOrDroppedWhileHalted : Prop :=
  ∀ (s : State) (w : Word) (rest : List Input), s.running = none → s.rst = false →
    s.inputs = .access (.write 32 0x00C w) :: rest →
    (s.halted = false ∨ w = 0x00000001 → step s = .next { s with inputs := rest, running := some w }) ∧
    (s.halted = true → w ≠ 0x00000001 → step s = .next { s with inputs := rest })

/-- R151: while BUSY = 1 a CMD write only sets OVR, and every other aligned write changes nothing. -/
def Obligations.WritesWhileBusyAreDropped : Prop :=
  ∀ (s : State) (a : Offset) (v : Word) (rest : List Input), s.busy = true → s.rst = false → a.toNat % 4 = 0 →
    s.inputs = .access (.write 32 a v) :: rest →
    (a.toNat = 0x00C → step s = .next { s with inputs := rest, ovr := true }) ∧
    (a.toNat ≠ 0x00C → step s = .next { s with inputs := rest })

/-- R152: while BUSY = 1 an aligned read changes no register and no IBUF byte; ID reads as always and STATUS reads with
bit 0 set. Nothing is said of the draws. -/
def Obligations.ReadsWhileBusyChangeNoRegister : Prop :=
  ∀ (s : State) (a : Offset) (rest : List Input), s.busy = true → a.toNat % 4 = 0 →
    s.inputs = .access (.read 32 a) :: rest →
    ∃ t, step s = .next t ∧ t = { s with inputs := rest, rdata := t.rdata, draws := t.draws } ∧
      (a.toNat = 0x000 → t.rdata = 0x50544C01) ∧ (a.toNat = 0x008 → t.rdata.getLsbD 0 = true)

/-- R51, R157: an access that is not 32 bits wide, or not word-aligned, is refused in every state, and no other input
is. -/
def Obligations.OnlyMisshapenAccessesAreRefused : Prop :=
  ∀ s : State, (∃ r, step s = .refused r) ↔
    ∃ rest width a v, (s.inputs = .access (.read width a) :: rest ∨ s.inputs = .access (.write width a v) :: rest) ∧
      (width ≠ 32 ∨ a.toNat % 4 ≠ 0)

/-- R145, R146, R47: `rst` asserted gives every register its reset value from any state, a running command included,
and IBUF nothing written; the same on its release. -/
def Obligations.ResetInputGivesTheResetValues : Prop :=
  ∀ (s : State) (level : Bool) (rest : List Input), s.inputs = .rst level :: rest → level = true ∨ s.rst = true →
    step s = .next { State.reset with
      ibufBytes := s.ibufBytes, rst := level, rdata := s.rdata, inputs := rest, draws := s.draws }

/-- R146, R145: while `rst` is asserted a host write has no effect, and an idle read returns the reset values. -/
def Obligations.AccessesDuringResetHaveNoEffect : Prop :=
  ∀ (s : State) (a : Offset) (v : Word) (rest : List Input), s.rst = true → a.toNat % 4 = 0 →
    (s.inputs = .access (.write 32 a v) :: rest → step s = .next { s with inputs := rest }) ∧
    (s.inputs = .access (.read 32 a) :: rest → s.Inv → a.toNat < 0x10000 →
      step s = .next { s with inputs := rest, rdata := if a = 0 then 0x50544C01 else 0 })

/-- R47, R145: what reset leaves. That no IBUF byte is written is R49 in the form of log entry 6, and IBUF_BYTES in its
range R7 with log entry 3. -/
def Obligations.ResetLeavesTheBlockIdle : Prop :=
  State.reset.busy = false ∧ (∀ r ∈ registerMap State.reset, r.2 = if r.1 = 0 then 0x50544C01 else 0) ∧
  (∀ a, State.reset.mem.read a = none) ∧ State.reset.ParameterLegal

/-! ### Completion, polling, the invariant -/

/-- R159, R88, R74: an accepted command completes: from a state the block can be in, whose inputs are aligned 32-bit
accesses and engine's turns, BUSY is 0 after at most one step more than there are inputs. -/
def Obligations.EveryAcceptedCommandCompletes : Prop :=
  ∀ s : State, s.Inv → s.busy = true →
    (∀ i ∈ s.inputs, i = .engine ∨ (∃ a, a.toNat % 4 = 0 ∧ i = .access (.read 32 a)) ∨
      ∃ a v, a.toNat % 4 = 0 ∧ i = .access (.write 32 a v)) →
    ∃ k t, k ≤ s.inputs.length + 1 ∧ core.run k s = .next t ∧ t.running = none

/-- R86, R88, R73: a mnemonic of a listing, with its wait of any number of polls, runs its command: from an idle block
that is not halted it ends in the state the command alone leaves, but for `rdata` and the draw counter, with STATUS
as that state has it, when no byte the command fetches is a draw. The form of a wait (polls, the engine's turn, one
last read) is the model's choice, log entries 17 and 1; the draw counter and `rdata` are log entries 2 and 10. -/
def Obligations.PolledMnemonicRunsItsCommand : Prop :=
  ∀ (s t : State) (i : Instr) (polls : Nat) (rest : List Input), i.wellFormed = true → s.running = none →
    s.halted = false → s.rst = false → s.Readable → exec i s = .next t →
    s.inputs = mnemonic polls i ++ rest →
    core.run (polls + 3) s =
      .next { t with inputs := rest, rdata := statusWord t, draws := s.draws + polls }

/-- R40, R20, R25, R36, R38, R131, R145: the invariant holds at reset. -/
def Obligations.InvariantHoldsAtReset : Prop := State.reset.Inv

/-- R20, R25, R32, R35-R38, R40, R94, R131, R145: every step keeps the invariant, from every state that has it. -/
def Obligations.EveryStepKeepsTheInvariant : Prop := ∀ s t : State, s.Inv → step s = .next t → t.Inv

/-- R50, R76: from a state the block can be in, no step stops with a fault of the model: the engine never reads outside
IBUF. -/
def Obligations.NoStepFaultsFromTheInvariant : Prop := ∀ (s : State) (f : Fault), s.Inv → step s ≠ .fault f
end

