-- ==== Sys2Proof/Laws/State.lean ====
section
/-! SUPPORT. Each update of State, field by field: what it writes and what it leaves. -/
namespace Sys2Proof.Machine

section draw
@[simp] theorem State.draw_ibufBytes (s : State) : s.draw.ibufBytes = s.ibufBytes := rfl
@[simp] theorem State.draw_mem (s : State) : s.draw.mem = s.mem := rfl
@[simp] theorem State.draw_strict (s : State) : s.draw.strict = s.strict := rfl
@[simp] theorem State.draw_budget (s : State) : s.draw.budget = s.budget := rfl
@[simp] theorem State.draw_running (s : State) : s.draw.running = s.running := rfl
@[simp] theorem State.draw_halted (s : State) : s.draw.halted = s.halted := rfl
@[simp] theorem State.draw_err (s : State) : s.draw.err = s.err := rfl
@[simp] theorem State.draw_padded (s : State) : s.draw.padded = s.padded := rfl
@[simp] theorem State.draw_ovr (s : State) : s.draw.ovr = s.ovr := rfl
@[simp] theorem State.draw_cidv (s : State) : s.draw.cidv = s.cidv := rfl
@[simp] theorem State.draw_len (s : State) : s.draw.len = s.len := rfl
@[simp] theorem State.draw_result (s : State) : s.draw.result = s.result := rfl
@[simp] theorem State.draw_bytepos (s : State) : s.draw.bytepos = s.bytepos := rfl
@[simp] theorem State.draw_cache (s : State) : s.draw.cache = s.cache := rfl
@[simp] theorem State.draw_cacheBits (s : State) : s.draw.cacheBits = s.cacheBits := rfl
@[simp] theorem State.draw_hv (s : State) : s.draw.hv = s.hv := rfl
@[simp] theorem State.draw_h1 (s : State) : s.draw.h1 = s.h1 := rfl
@[simp] theorem State.draw_h2 (s : State) : s.draw.h2 = s.h2 := rfl
@[simp] theorem State.draw_consumed (s : State) : s.draw.consumed = s.consumed := rfl
@[simp] theorem State.draw_errOp (s : State) : s.draw.errOp = s.errOp := rfl
@[simp] theorem State.draw_errKind (s : State) : s.draw.errKind = s.errKind := rfl
@[simp] theorem State.draw_errpos (s : State) : s.draw.errpos = s.errpos := rfl
@[simp] theorem State.draw_ptlGen (s : State) : s.draw.ptlGen = s.ptlGen := rfl
@[simp] theorem State.draw_ptlCompat (s : State) : s.draw.ptlCompat = s.ptlCompat := rfl
@[simp] theorem State.draw_ptlConsLo (s : State) : s.draw.ptlConsLo = s.ptlConsLo := rfl
@[simp] theorem State.draw_ptlConsHi (s : State) : s.draw.ptlConsHi = s.ptlConsHi := rfl
@[simp] theorem State.draw_ptlSub (s : State) : s.draw.ptlSub = s.ptlSub := rfl
@[simp] theorem State.draw_cidlen (s : State) : s.draw.cidlen = s.cidlen := rfl
@[simp] theorem State.draw_cid (s : State) : s.draw.cid = s.cid := rfl
@[simp] theorem State.draw_rst (s : State) : s.draw.rst = s.rst := rfl
@[simp] theorem State.draw_rdata (s : State) : s.draw.rdata = s.rdata := rfl
@[simp] theorem State.draw_inputs (s : State) : s.draw.inputs = s.inputs := rfl
@[simp] theorem State.draw_draws (s : State) : s.draw.draws = s.draws + 1 := rfl
end draw

section complete
@[simp] theorem State.complete_ibufBytes (s : State) : s.complete.ibufBytes = s.ibufBytes := rfl
@[simp] theorem State.complete_mem (s : State) : s.complete.mem = s.mem := rfl
@[simp] theorem State.complete_strict (s : State) : s.complete.strict = s.strict := rfl
@[simp] theorem State.complete_budget (s : State) : s.complete.budget = s.budget := rfl
@[simp] theorem State.complete_running (s : State) : s.complete.running = none := rfl
@[simp] theorem State.complete_halted (s : State) : s.complete.halted = s.halted := rfl
@[simp] theorem State.complete_err (s : State) : s.complete.err = s.err := rfl
@[simp] theorem State.complete_padded (s : State) : s.complete.padded = s.padded := rfl
@[simp] theorem State.complete_ovr (s : State) : s.complete.ovr = s.ovr := rfl
@[simp] theorem State.complete_cidv (s : State) : s.complete.cidv = s.cidv := rfl
@[simp] theorem State.complete_len (s : State) : s.complete.len = s.len := rfl
@[simp] theorem State.complete_result (s : State) : s.complete.result = s.result := rfl
@[simp] theorem State.complete_bytepos (s : State) : s.complete.bytepos = s.bytepos := rfl
@[simp] theorem State.complete_cache (s : State) : s.complete.cache = s.cache := rfl
@[simp] theorem State.complete_cacheBits (s : State) : s.complete.cacheBits = s.cacheBits := rfl
@[simp] theorem State.complete_hv (s : State) : s.complete.hv = s.hv := rfl
@[simp] theorem State.complete_h1 (s : State) : s.complete.h1 = s.h1 := rfl
@[simp] theorem State.complete_h2 (s : State) : s.complete.h2 = s.h2 := rfl
@[simp] theorem State.complete_consumed (s : State) : s.complete.consumed = s.consumed := rfl
@[simp] theorem State.complete_errOp (s : State) : s.complete.errOp = s.errOp := rfl
@[simp] theorem State.complete_errKind (s : State) : s.complete.errKind = s.errKind := rfl
@[simp] theorem State.complete_errpos (s : State) : s.complete.errpos = s.errpos := rfl
@[simp] theorem State.complete_ptlGen (s : State) : s.complete.ptlGen = s.ptlGen := rfl
@[simp] theorem State.complete_ptlCompat (s : State) : s.complete.ptlCompat = s.ptlCompat := rfl
@[simp] theorem State.complete_ptlConsLo (s : State) : s.complete.ptlConsLo = s.ptlConsLo := rfl
@[simp] theorem State.complete_ptlConsHi (s : State) : s.complete.ptlConsHi = s.ptlConsHi := rfl
@[simp] theorem State.complete_ptlSub (s : State) : s.complete.ptlSub = s.ptlSub := rfl
@[simp] theorem State.complete_cidlen (s : State) : s.complete.cidlen = s.cidlen := rfl
@[simp] theorem State.complete_cid (s : State) : s.complete.cid = s.cid := rfl
@[simp] theorem State.complete_rst (s : State) : s.complete.rst = s.rst := rfl
@[simp] theorem State.complete_rdata (s : State) : s.complete.rdata = s.rdata := rfl
@[simp] theorem State.complete_inputs (s : State) : s.complete.inputs = s.inputs := rfl
@[simp] theorem State.complete_draws (s : State) : s.complete.draws = s.draws := rfl
end complete

section faultEntry
@[simp] theorem State.faultEntry_ibufBytes (e : Raise) (op : BitVec 4) (s : State) : (s.faultEntry e op).ibufBytes = s.ibufBytes := rfl
@[simp] theorem State.faultEntry_mem (e : Raise) (op : BitVec 4) (s : State) : (s.faultEntry e op).mem = s.mem := rfl
@[simp] theorem State.faultEntry_strict (e : Raise) (op : BitVec 4) (s : State) : (s.faultEntry e op).strict = s.strict := rfl
@[simp] theorem State.faultEntry_budget (e : Raise) (op : BitVec 4) (s : State) : (s.faultEntry e op).budget = s.budget := rfl
@[simp] theorem State.faultEntry_running (e : Raise) (op : BitVec 4) (s : State) : (s.faultEntry e op).running = none := rfl
@[simp] theorem State.faultEntry_halted (e : Raise) (op : BitVec 4) (s : State) : (s.faultEntry e op).halted = true := rfl
@[simp] theorem State.faultEntry_err (e : Raise) (op : BitVec 4) (s : State) : (s.faultEntry e op).err = e.code := rfl
@[simp] theorem State.faultEntry_padded (e : Raise) (op : BitVec 4) (s : State) : (s.faultEntry e op).padded = s.padded := rfl
@[simp] theorem State.faultEntry_ovr (e : Raise) (op : BitVec 4) (s : State) : (s.faultEntry e op).ovr = s.ovr := rfl
@[simp] theorem State.faultEntry_cidv (e : Raise) (op : BitVec 4) (s : State) : (s.faultEntry e op).cidv = s.cidv := rfl
@[simp] theorem State.faultEntry_len (e : Raise) (op : BitVec 4) (s : State) : (s.faultEntry e op).len = s.len := rfl
@[simp] theorem State.faultEntry_result (e : Raise) (op : BitVec 4) (s : State) : (s.faultEntry e op).result = s.result := rfl
@[simp] theorem State.faultEntry_bytepos (e : Raise) (op : BitVec 4) (s : State) : (s.faultEntry e op).bytepos = s.bytepos := rfl
@[simp] theorem State.faultEntry_cache (e : Raise) (op : BitVec 4) (s : State) : (s.faultEntry e op).cache = s.cache := rfl
@[simp] theorem State.faultEntry_cacheBits (e : Raise) (op : BitVec 4) (s : State) : (s.faultEntry e op).cacheBits = s.cacheBits := rfl
@[simp] theorem State.faultEntry_hv (e : Raise) (op : BitVec 4) (s : State) : (s.faultEntry e op).hv = s.hv := rfl
@[simp] theorem State.faultEntry_h1 (e : Raise) (op : BitVec 4) (s : State) : (s.faultEntry e op).h1 = s.h1 := rfl
@[simp] theorem State.faultEntry_h2 (e : Raise) (op : BitVec 4) (s : State) : (s.faultEntry e op).h2 = s.h2 := rfl
@[simp] theorem State.faultEntry_consumed (e : Raise) (op : BitVec 4) (s : State) : (s.faultEntry e op).consumed = s.consumed := rfl
@[simp] theorem State.faultEntry_errOp (e : Raise) (op : BitVec 4) (s : State) : (s.faultEntry e op).errOp = op := rfl
@[simp] theorem State.faultEntry_errKind (e : Raise) (op : BitVec 4) (s : State) : (s.faultEntry e op).errKind = e.kind := rfl
@[simp] theorem State.faultEntry_errpos (e : Raise) (op : BitVec 4) (s : State) : (s.faultEntry e op).errpos = s.consumed := rfl
@[simp] theorem State.faultEntry_ptlGen (e : Raise) (op : BitVec 4) (s : State) : (s.faultEntry e op).ptlGen = s.ptlGen := rfl
@[simp] theorem State.faultEntry_ptlCompat (e : Raise) (op : BitVec 4) (s : State) : (s.faultEntry e op).ptlCompat = s.ptlCompat := rfl
@[simp] theorem State.faultEntry_ptlConsLo (e : Raise) (op : BitVec 4) (s : State) : (s.faultEntry e op).ptlConsLo = s.ptlConsLo := rfl
@[simp] theorem State.faultEntry_ptlConsHi (e : Raise) (op : BitVec 4) (s : State) : (s.faultEntry e op).ptlConsHi = s.ptlConsHi := rfl
@[simp] theorem State.faultEntry_ptlSub (e : Raise) (op : BitVec 4) (s : State) : (s.faultEntry e op).ptlSub = s.ptlSub := rfl
@[simp] theorem State.faultEntry_cidlen (e : Raise) (op : BitVec 4) (s : State) : (s.faultEntry e op).cidlen = s.cidlen := rfl
@[simp] theorem State.faultEntry_cid (e : Raise) (op : BitVec 4) (s : State) : (s.faultEntry e op).cid = s.cid := rfl
@[simp] theorem State.faultEntry_rst (e : Raise) (op : BitVec 4) (s : State) : (s.faultEntry e op).rst = s.rst := rfl
@[simp] theorem State.faultEntry_rdata (e : Raise) (op : BitVec 4) (s : State) : (s.faultEntry e op).rdata = s.rdata := rfl
@[simp] theorem State.faultEntry_inputs (e : Raise) (op : BitVec 4) (s : State) : (s.faultEntry e op).inputs = s.inputs := rfl
@[simp] theorem State.faultEntry_draws (e : Raise) (op : BitVec 4) (s : State) : (s.faultEntry e op).draws = s.draws := rfl
end faultEntry

section initParse
@[simp] theorem State.initParse_ibufBytes (s : State) : s.initParse.ibufBytes = s.ibufBytes := rfl
@[simp] theorem State.initParse_mem (s : State) : s.initParse.mem = s.mem := rfl
@[simp] theorem State.initParse_strict (s : State) : s.initParse.strict = s.strict := rfl
@[simp] theorem State.initParse_budget (s : State) : s.initParse.budget = s.budget := rfl
@[simp] theorem State.initParse_running (s : State) : s.initParse.running = s.running := rfl
@[simp] theorem State.initParse_halted (s : State) : s.initParse.halted = false := rfl
@[simp] theorem State.initParse_err (s : State) : s.initParse.err = .none := rfl
@[simp] theorem State.initParse_padded (s : State) : s.initParse.padded = false := rfl
@[simp] theorem State.initParse_ovr (s : State) : s.initParse.ovr = false := rfl
@[simp] theorem State.initParse_cidv (s : State) : s.initParse.cidv = false := rfl
@[simp] theorem State.initParse_len (s : State) : s.initParse.len = s.len := rfl
@[simp] theorem State.initParse_result (s : State) : s.initParse.result = 0 := rfl
@[simp] theorem State.initParse_bytepos (s : State) : s.initParse.bytepos = 0 := rfl
@[simp] theorem State.initParse_cache (s : State) : s.initParse.cache = 0 := rfl
@[simp] theorem State.initParse_cacheBits (s : State) : s.initParse.cacheBits = 0 := rfl
@[simp] theorem State.initParse_hv (s : State) : s.initParse.hv = 0 := rfl
@[simp] theorem State.initParse_h1 (s : State) : s.initParse.h1 = 0 := rfl
@[simp] theorem State.initParse_h2 (s : State) : s.initParse.h2 = 0 := rfl
@[simp] theorem State.initParse_consumed (s : State) : s.initParse.consumed = 0 := rfl
@[simp] theorem State.initParse_errOp (s : State) : s.initParse.errOp = 0 := rfl
@[simp] theorem State.initParse_errKind (s : State) : s.initParse.errKind = false := rfl
@[simp] theorem State.initParse_errpos (s : State) : s.initParse.errpos = 0 := rfl
@[simp] theorem State.initParse_ptlGen (s : State) : s.initParse.ptlGen = 0 := rfl
@[simp] theorem State.initParse_ptlCompat (s : State) : s.initParse.ptlCompat = 0 := rfl
@[simp] theorem State.initParse_ptlConsLo (s : State) : s.initParse.ptlConsLo = 0 := rfl
@[simp] theorem State.initParse_ptlConsHi (s : State) : s.initParse.ptlConsHi = 0 := rfl
@[simp] theorem State.initParse_ptlSub (s : State) : s.initParse.ptlSub = 0 := rfl
@[simp] theorem State.initParse_cidlen (s : State) : s.initParse.cidlen = 0 := rfl
@[simp] theorem State.initParse_cid (s : State) : s.initParse.cid = List.replicate 40 0 := rfl
@[simp] theorem State.initParse_rst (s : State) : s.initParse.rst = s.rst := rfl
@[simp] theorem State.initParse_rdata (s : State) : s.initParse.rdata = s.rdata := rfl
@[simp] theorem State.initParse_inputs (s : State) : s.initParse.inputs = s.inputs := rfl
@[simp] theorem State.initParse_draws (s : State) : s.initParse.draws = s.draws := rfl
end initParse

section applyReset
@[simp] theorem State.applyReset_ibufBytes (level : Bool) (s : State) : (s.applyReset level).ibufBytes = s.ibufBytes := rfl
@[simp] theorem State.applyReset_mem (level : Bool) (s : State) : (s.applyReset level).mem = [] := rfl
@[simp] theorem State.applyReset_strict (level : Bool) (s : State) : (s.applyReset level).strict = false := rfl
@[simp] theorem State.applyReset_budget (level : Bool) (s : State) : (s.applyReset level).budget = false := rfl
@[simp] theorem State.applyReset_running (level : Bool) (s : State) : (s.applyReset level).running = none := rfl
@[simp] theorem State.applyReset_halted (level : Bool) (s : State) : (s.applyReset level).halted = false := rfl
@[simp] theorem State.applyReset_err (level : Bool) (s : State) : (s.applyReset level).err = .none := rfl
@[simp] theorem State.applyReset_padded (level : Bool) (s : State) : (s.applyReset level).padded = false := rfl
@[simp] theorem State.applyReset_ovr (level : Bool) (s : State) : (s.applyReset level).ovr = false := rfl
@[simp] theorem State.applyReset_cidv (level : Bool) (s : State) : (s.applyReset level).cidv = false := rfl
@[simp] theorem State.applyReset_len (level : Bool) (s : State) : (s.applyReset level).len = 0 := rfl
@[simp] theorem State.applyReset_result (level : Bool) (s : State) : (s.applyReset level).result = 0 := rfl
@[simp] theorem State.applyReset_bytepos (level : Bool) (s : State) : (s.applyReset level).bytepos = 0 := rfl
@[simp] theorem State.applyReset_cache (level : Bool) (s : State) : (s.applyReset level).cache = 0 := rfl
@[simp] theorem State.applyReset_cacheBits (level : Bool) (s : State) : (s.applyReset level).cacheBits = 0 := rfl
@[simp] theorem State.applyReset_hv (level : Bool) (s : State) : (s.applyReset level).hv = 0 := rfl
@[simp] theorem State.applyReset_h1 (level : Bool) (s : State) : (s.applyReset level).h1 = 0 := rfl
@[simp] theorem State.applyReset_h2 (level : Bool) (s : State) : (s.applyReset level).h2 = 0 := rfl
@[simp] theorem State.applyReset_consumed (level : Bool) (s : State) : (s.applyReset level).consumed = 0 := rfl
@[simp] theorem State.applyReset_errOp (level : Bool) (s : State) : (s.applyReset level).errOp = 0 := rfl
@[simp] theorem State.applyReset_errKind (level : Bool) (s : State) : (s.applyReset level).errKind = false := rfl
@[simp] theorem State.applyReset_errpos (level : Bool) (s : State) : (s.applyReset level).errpos = 0 := rfl
@[simp] theorem State.applyReset_ptlGen (level : Bool) (s : State) : (s.applyReset level).ptlGen = 0 := rfl
@[simp] theorem State.applyReset_ptlCompat (level : Bool) (s : State) : (s.applyReset level).ptlCompat = 0 := rfl
@[simp] theorem State.applyReset_ptlConsLo (level : Bool) (s : State) : (s.applyReset level).ptlConsLo = 0 := rfl
@[simp] theorem State.applyReset_ptlConsHi (level : Bool) (s : State) : (s.applyReset level).ptlConsHi = 0 := rfl
@[simp] theorem State.applyReset_ptlSub (level : Bool) (s : State) : (s.applyReset level).ptlSub = 0 := rfl
@[simp] theorem State.applyReset_cidlen (level : Bool) (s : State) : (s.applyReset level).cidlen = 0 := rfl
@[simp] theorem State.applyReset_cid (level : Bool) (s : State) : (s.applyReset level).cid = List.replicate 40 0 := rfl
@[simp] theorem State.applyReset_rst (level : Bool) (s : State) : (s.applyReset level).rst = level := rfl
@[simp] theorem State.applyReset_rdata (level : Bool) (s : State) : (s.applyReset level).rdata = s.rdata := rfl
@[simp] theorem State.applyReset_inputs (level : Bool) (s : State) : (s.applyReset level).inputs = s.inputs := rfl
@[simp] theorem State.applyReset_draws (level : Bool) (s : State) : (s.applyReset level).draws = s.draws := rfl
end applyReset

section takeRaw
@[simp] theorem State.takeRaw_ibufBytes (b : Byte) (s : State) : (s.takeRaw b).ibufBytes = s.ibufBytes := rfl
@[simp] theorem State.takeRaw_mem (b : Byte) (s : State) : (s.takeRaw b).mem = s.mem := rfl
@[simp] theorem State.takeRaw_strict (b : Byte) (s : State) : (s.takeRaw b).strict = s.strict := rfl
@[simp] theorem State.takeRaw_budget (b : Byte) (s : State) : (s.takeRaw b).budget = s.budget := rfl
@[simp] theorem State.takeRaw_running (b : Byte) (s : State) : (s.takeRaw b).running = s.running := rfl
@[simp] theorem State.takeRaw_halted (b : Byte) (s : State) : (s.takeRaw b).halted = s.halted := rfl
@[simp] theorem State.takeRaw_err (b : Byte) (s : State) : (s.takeRaw b).err = s.err := rfl
@[simp] theorem State.takeRaw_padded (b : Byte) (s : State) : (s.takeRaw b).padded = s.padded := rfl
@[simp] theorem State.takeRaw_ovr (b : Byte) (s : State) : (s.takeRaw b).ovr = s.ovr := rfl
@[simp] theorem State.takeRaw_cidv (b : Byte) (s : State) : (s.takeRaw b).cidv = s.cidv := rfl
@[simp] theorem State.takeRaw_len (b : Byte) (s : State) : (s.takeRaw b).len = s.len := rfl
@[simp] theorem State.takeRaw_result (b : Byte) (s : State) : (s.takeRaw b).result = s.result := rfl
@[simp] theorem State.takeRaw_bytepos (b : Byte) (s : State) : (s.takeRaw b).bytepos = s.bytepos + 1 := rfl
@[simp] theorem State.takeRaw_cache (b : Byte) (s : State) : (s.takeRaw b).cache = s.cache := rfl
@[simp] theorem State.takeRaw_cacheBits (b : Byte) (s : State) : (s.takeRaw b).cacheBits = s.cacheBits := rfl
@[simp] theorem State.takeRaw_hv (b : Byte) (s : State) : (s.takeRaw b).hv = BitVec.ofNat 2 (min (s.hv.toNat + 1) 2) := rfl
@[simp] theorem State.takeRaw_h1 (b : Byte) (s : State) : (s.takeRaw b).h1 = b := rfl
@[simp] theorem State.takeRaw_h2 (b : Byte) (s : State) : (s.takeRaw b).h2 = s.h1 := rfl
@[simp] theorem State.takeRaw_consumed (b : Byte) (s : State) : (s.takeRaw b).consumed = s.consumed := rfl
@[simp] theorem State.takeRaw_errOp (b : Byte) (s : State) : (s.takeRaw b).errOp = s.errOp := rfl
@[simp] theorem State.takeRaw_errKind (b : Byte) (s : State) : (s.takeRaw b).errKind = s.errKind := rfl
@[simp] theorem State.takeRaw_errpos (b : Byte) (s : State) : (s.takeRaw b).errpos = s.errpos := rfl
@[simp] theorem State.takeRaw_ptlGen (b : Byte) (s : State) : (s.takeRaw b).ptlGen = s.ptlGen := rfl
@[simp] theorem State.takeRaw_ptlCompat (b : Byte) (s : State) : (s.takeRaw b).ptlCompat = s.ptlCompat := rfl
@[simp] theorem State.takeRaw_ptlConsLo (b : Byte) (s : State) : (s.takeRaw b).ptlConsLo = s.ptlConsLo := rfl
@[simp] theorem State.takeRaw_ptlConsHi (b : Byte) (s : State) : (s.takeRaw b).ptlConsHi = s.ptlConsHi := rfl
@[simp] theorem State.takeRaw_ptlSub (b : Byte) (s : State) : (s.takeRaw b).ptlSub = s.ptlSub := rfl
@[simp] theorem State.takeRaw_cidlen (b : Byte) (s : State) : (s.takeRaw b).cidlen = s.cidlen := rfl
@[simp] theorem State.takeRaw_cid (b : Byte) (s : State) : (s.takeRaw b).cid = s.cid := rfl
@[simp] theorem State.takeRaw_rst (b : Byte) (s : State) : (s.takeRaw b).rst = s.rst := rfl
@[simp] theorem State.takeRaw_rdata (b : Byte) (s : State) : (s.takeRaw b).rdata = s.rdata := rfl
@[simp] theorem State.takeRaw_inputs (b : Byte) (s : State) : (s.takeRaw b).inputs = s.inputs := rfl
@[simp] theorem State.takeRaw_draws (b : Byte) (s : State) : (s.takeRaw b).draws = s.draws := rfl
end takeRaw

section setPadded
@[simp] theorem State.setPadded_ibufBytes (s : State) : s.setPadded.ibufBytes = s.ibufBytes := rfl
@[simp] theorem State.setPadded_mem (s : State) : s.setPadded.mem = s.mem := rfl
@[simp] theorem State.setPadded_strict (s : State) : s.setPadded.strict = s.strict := rfl
@[simp] theorem State.setPadded_budget (s : State) : s.setPadded.budget = s.budget := rfl
@[simp] theorem State.setPadded_running (s : State) : s.setPadded.running = s.running := rfl
@[simp] theorem State.setPadded_halted (s : State) : s.setPadded.halted = s.halted := rfl
@[simp] theorem State.setPadded_err (s : State) : s.setPadded.err = s.err := rfl
@[simp] theorem State.setPadded_padded (s : State) : s.setPadded.padded = true := rfl
@[simp] theorem State.setPadded_ovr (s : State) : s.setPadded.ovr = s.ovr := rfl
@[simp] theorem State.setPadded_cidv (s : State) : s.setPadded.cidv = s.cidv := rfl
@[simp] theorem State.setPadded_len (s : State) : s.setPadded.len = s.len := rfl
@[simp] theorem State.setPadded_result (s : State) : s.setPadded.result = s.result := rfl
@[simp] theorem State.setPadded_bytepos (s : State) : s.setPadded.bytepos = s.bytepos := rfl
@[simp] theorem State.setPadded_cache (s : State) : s.setPadded.cache = s.cache := rfl
@[simp] theorem State.setPadded_cacheBits (s : State) : s.setPadded.cacheBits = s.cacheBits := rfl
@[simp] theorem State.setPadded_hv (s : State) : s.setPadded.hv = s.hv := rfl
@[simp] theorem State.setPadded_h1 (s : State) : s.setPadded.h1 = s.h1 := rfl
@[simp] theorem State.setPadded_h2 (s : State) : s.setPadded.h2 = s.h2 := rfl
@[simp] theorem State.setPadded_consumed (s : State) : s.setPadded.consumed = s.consumed := rfl
@[simp] theorem State.setPadded_errOp (s : State) : s.setPadded.errOp = s.errOp := rfl
@[simp] theorem State.setPadded_errKind (s : State) : s.setPadded.errKind = s.errKind := rfl
@[simp] theorem State.setPadded_errpos (s : State) : s.setPadded.errpos = s.errpos := rfl
@[simp] theorem State.setPadded_ptlGen (s : State) : s.setPadded.ptlGen = s.ptlGen := rfl
@[simp] theorem State.setPadded_ptlCompat (s : State) : s.setPadded.ptlCompat = s.ptlCompat := rfl
@[simp] theorem State.setPadded_ptlConsLo (s : State) : s.setPadded.ptlConsLo = s.ptlConsLo := rfl
@[simp] theorem State.setPadded_ptlConsHi (s : State) : s.setPadded.ptlConsHi = s.ptlConsHi := rfl
@[simp] theorem State.setPadded_ptlSub (s : State) : s.setPadded.ptlSub = s.ptlSub := rfl
@[simp] theorem State.setPadded_cidlen (s : State) : s.setPadded.cidlen = s.cidlen := rfl
@[simp] theorem State.setPadded_cid (s : State) : s.setPadded.cid = s.cid := rfl
@[simp] theorem State.setPadded_rst (s : State) : s.setPadded.rst = s.rst := rfl
@[simp] theorem State.setPadded_rdata (s : State) : s.setPadded.rdata = s.rdata := rfl
@[simp] theorem State.setPadded_inputs (s : State) : s.setPadded.inputs = s.inputs := rfl
@[simp] theorem State.setPadded_draws (s : State) : s.setPadded.draws = s.draws := rfl
end setPadded

section fillCache
@[simp] theorem State.fillCache_ibufBytes (b : Byte) (s : State) : (s.fillCache b).ibufBytes = s.ibufBytes := rfl
@[simp] theorem State.fillCache_mem (b : Byte) (s : State) : (s.fillCache b).mem = s.mem := rfl
@[simp] theorem State.fillCache_strict (b : Byte) (s : State) : (s.fillCache b).strict = s.strict := rfl
@[simp] theorem State.fillCache_budget (b : Byte) (s : State) : (s.fillCache b).budget = s.budget := rfl
@[simp] theorem State.fillCache_running (b : Byte) (s : State) : (s.fillCache b).running = s.running := rfl
@[simp] theorem State.fillCache_halted (b : Byte) (s : State) : (s.fillCache b).halted = s.halted := rfl
@[simp] theorem State.fillCache_err (b : Byte) (s : State) : (s.fillCache b).err = s.err := rfl
@[simp] theorem State.fillCache_padded (b : Byte) (s : State) : (s.fillCache b).padded = s.padded := rfl
@[simp] theorem State.fillCache_ovr (b : Byte) (s : State) : (s.fillCache b).ovr = s.ovr := rfl
@[simp] theorem State.fillCache_cidv (b : Byte) (s : State) : (s.fillCache b).cidv = s.cidv := rfl
@[simp] theorem State.fillCache_len (b : Byte) (s : State) : (s.fillCache b).len = s.len := rfl
@[simp] theorem State.fillCache_result (b : Byte) (s : State) : (s.fillCache b).result = s.result := rfl
@[simp] theorem State.fillCache_bytepos (b : Byte) (s : State) : (s.fillCache b).bytepos = s.bytepos := rfl
@[simp] theorem State.fillCache_cache (b : Byte) (s : State) : (s.fillCache b).cache = b := rfl
@[simp] theorem State.fillCache_cacheBits (b : Byte) (s : State) : (s.fillCache b).cacheBits = 8 := rfl
@[simp] theorem State.fillCache_hv (b : Byte) (s : State) : (s.fillCache b).hv = s.hv := rfl
@[simp] theorem State.fillCache_h1 (b : Byte) (s : State) : (s.fillCache b).h1 = s.h1 := rfl
@[simp] theorem State.fillCache_h2 (b : Byte) (s : State) : (s.fillCache b).h2 = s.h2 := rfl
@[simp] theorem State.fillCache_consumed (b : Byte) (s : State) : (s.fillCache b).consumed = s.consumed := rfl
@[simp] theorem State.fillCache_errOp (b : Byte) (s : State) : (s.fillCache b).errOp = s.errOp := rfl
@[simp] theorem State.fillCache_errKind (b : Byte) (s : State) : (s.fillCache b).errKind = s.errKind := rfl
@[simp] theorem State.fillCache_errpos (b : Byte) (s : State) : (s.fillCache b).errpos = s.errpos := rfl
@[simp] theorem State.fillCache_ptlGen (b : Byte) (s : State) : (s.fillCache b).ptlGen = s.ptlGen := rfl
@[simp] theorem State.fillCache_ptlCompat (b : Byte) (s : State) : (s.fillCache b).ptlCompat = s.ptlCompat := rfl
@[simp] theorem State.fillCache_ptlConsLo (b : Byte) (s : State) : (s.fillCache b).ptlConsLo = s.ptlConsLo := rfl
@[simp] theorem State.fillCache_ptlConsHi (b : Byte) (s : State) : (s.fillCache b).ptlConsHi = s.ptlConsHi := rfl
@[simp] theorem State.fillCache_ptlSub (b : Byte) (s : State) : (s.fillCache b).ptlSub = s.ptlSub := rfl
@[simp] theorem State.fillCache_cidlen (b : Byte) (s : State) : (s.fillCache b).cidlen = s.cidlen := rfl
@[simp] theorem State.fillCache_cid (b : Byte) (s : State) : (s.fillCache b).cid = s.cid := rfl
@[simp] theorem State.fillCache_rst (b : Byte) (s : State) : (s.fillCache b).rst = s.rst := rfl
@[simp] theorem State.fillCache_rdata (b : Byte) (s : State) : (s.fillCache b).rdata = s.rdata := rfl
@[simp] theorem State.fillCache_inputs (b : Byte) (s : State) : (s.fillCache b).inputs = s.inputs := rfl
@[simp] theorem State.fillCache_draws (b : Byte) (s : State) : (s.fillCache b).draws = s.draws := rfl
end fillCache

section countBit
@[simp] theorem State.countBit_ibufBytes (s : State) : s.countBit.ibufBytes = s.ibufBytes := rfl
@[simp] theorem State.countBit_mem (s : State) : s.countBit.mem = s.mem := rfl
@[simp] theorem State.countBit_strict (s : State) : s.countBit.strict = s.strict := rfl
@[simp] theorem State.countBit_budget (s : State) : s.countBit.budget = s.budget := rfl
@[simp] theorem State.countBit_running (s : State) : s.countBit.running = s.running := rfl
@[simp] theorem State.countBit_halted (s : State) : s.countBit.halted = s.halted := rfl
@[simp] theorem State.countBit_err (s : State) : s.countBit.err = s.err := rfl
@[simp] theorem State.countBit_padded (s : State) : s.countBit.padded = s.padded := rfl
@[simp] theorem State.countBit_ovr (s : State) : s.countBit.ovr = s.ovr := rfl
@[simp] theorem State.countBit_cidv (s : State) : s.countBit.cidv = s.cidv := rfl
@[simp] theorem State.countBit_len (s : State) : s.countBit.len = s.len := rfl
@[simp] theorem State.countBit_result (s : State) : s.countBit.result = s.result := rfl
@[simp] theorem State.countBit_bytepos (s : State) : s.countBit.bytepos = s.bytepos := rfl
@[simp] theorem State.countBit_cache (s : State) : s.countBit.cache = s.cache := rfl
@[simp] theorem State.countBit_cacheBits (s : State) : s.countBit.cacheBits = s.cacheBits - 1 := rfl
@[simp] theorem State.countBit_hv (s : State) : s.countBit.hv = s.hv := rfl
@[simp] theorem State.countBit_h1 (s : State) : s.countBit.h1 = s.h1 := rfl
@[simp] theorem State.countBit_h2 (s : State) : s.countBit.h2 = s.h2 := rfl
@[simp] theorem State.countBit_consumed (s : State) : s.countBit.consumed = satAdd s.consumed 1 := rfl
@[simp] theorem State.countBit_errOp (s : State) : s.countBit.errOp = s.errOp := rfl
@[simp] theorem State.countBit_errKind (s : State) : s.countBit.errKind = s.errKind := rfl
@[simp] theorem State.countBit_errpos (s : State) : s.countBit.errpos = s.errpos := rfl
@[simp] theorem State.countBit_ptlGen (s : State) : s.countBit.ptlGen = s.ptlGen := rfl
@[simp] theorem State.countBit_ptlCompat (s : State) : s.countBit.ptlCompat = s.ptlCompat := rfl
@[simp] theorem State.countBit_ptlConsLo (s : State) : s.countBit.ptlConsLo = s.ptlConsLo := rfl
@[simp] theorem State.countBit_ptlConsHi (s : State) : s.countBit.ptlConsHi = s.ptlConsHi := rfl
@[simp] theorem State.countBit_ptlSub (s : State) : s.countBit.ptlSub = s.ptlSub := rfl
@[simp] theorem State.countBit_cidlen (s : State) : s.countBit.cidlen = s.cidlen := rfl
@[simp] theorem State.countBit_cid (s : State) : s.countBit.cid = s.cid := rfl
@[simp] theorem State.countBit_rst (s : State) : s.countBit.rst = s.rst := rfl
@[simp] theorem State.countBit_rdata (s : State) : s.countBit.rdata = s.rdata := rfl
@[simp] theorem State.countBit_inputs (s : State) : s.countBit.inputs = s.inputs := rfl
@[simp] theorem State.countBit_draws (s : State) : s.countBit.draws = s.draws := rfl
end countBit

section setResult
@[simp] theorem State.setResult_ibufBytes (v : Nat) (s : State) : (s.setResult v).ibufBytes = s.ibufBytes := rfl
@[simp] theorem State.setResult_mem (v : Nat) (s : State) : (s.setResult v).mem = s.mem := rfl
@[simp] theorem State.setResult_strict (v : Nat) (s : State) : (s.setResult v).strict = s.strict := rfl
@[simp] theorem State.setResult_budget (v : Nat) (s : State) : (s.setResult v).budget = s.budget := rfl
@[simp] theorem State.setResult_running (v : Nat) (s : State) : (s.setResult v).running = s.running := rfl
@[simp] theorem State.setResult_halted (v : Nat) (s : State) : (s.setResult v).halted = s.halted := rfl
@[simp] theorem State.setResult_err (v : Nat) (s : State) : (s.setResult v).err = s.err := rfl
@[simp] theorem State.setResult_padded (v : Nat) (s : State) : (s.setResult v).padded = s.padded := rfl
@[simp] theorem State.setResult_ovr (v : Nat) (s : State) : (s.setResult v).ovr = s.ovr := rfl
@[simp] theorem State.setResult_cidv (v : Nat) (s : State) : (s.setResult v).cidv = s.cidv := rfl
@[simp] theorem State.setResult_len (v : Nat) (s : State) : (s.setResult v).len = s.len := rfl
@[simp] theorem State.setResult_result (v : Nat) (s : State) : (s.setResult v).result = BitVec.ofNat 64 v := rfl
@[simp] theorem State.setResult_bytepos (v : Nat) (s : State) : (s.setResult v).bytepos = s.bytepos := rfl
@[simp] theorem State.setResult_cache (v : Nat) (s : State) : (s.setResult v).cache = s.cache := rfl
@[simp] theorem State.setResult_cacheBits (v : Nat) (s : State) : (s.setResult v).cacheBits = s.cacheBits := rfl
@[simp] theorem State.setResult_hv (v : Nat) (s : State) : (s.setResult v).hv = s.hv := rfl
@[simp] theorem State.setResult_h1 (v : Nat) (s : State) : (s.setResult v).h1 = s.h1 := rfl
@[simp] theorem State.setResult_h2 (v : Nat) (s : State) : (s.setResult v).h2 = s.h2 := rfl
@[simp] theorem State.setResult_consumed (v : Nat) (s : State) : (s.setResult v).consumed = s.consumed := rfl
@[simp] theorem State.setResult_errOp (v : Nat) (s : State) : (s.setResult v).errOp = s.errOp := rfl
@[simp] theorem State.setResult_errKind (v : Nat) (s : State) : (s.setResult v).errKind = s.errKind := rfl
@[simp] theorem State.setResult_errpos (v : Nat) (s : State) : (s.setResult v).errpos = s.errpos := rfl
@[simp] theorem State.setResult_ptlGen (v : Nat) (s : State) : (s.setResult v).ptlGen = s.ptlGen := rfl
@[simp] theorem State.setResult_ptlCompat (v : Nat) (s : State) : (s.setResult v).ptlCompat = s.ptlCompat := rfl
@[simp] theorem State.setResult_ptlConsLo (v : Nat) (s : State) : (s.setResult v).ptlConsLo = s.ptlConsLo := rfl
@[simp] theorem State.setResult_ptlConsHi (v : Nat) (s : State) : (s.setResult v).ptlConsHi = s.ptlConsHi := rfl
@[simp] theorem State.setResult_ptlSub (v : Nat) (s : State) : (s.setResult v).ptlSub = s.ptlSub := rfl
@[simp] theorem State.setResult_cidlen (v : Nat) (s : State) : (s.setResult v).cidlen = s.cidlen := rfl
@[simp] theorem State.setResult_cid (v : Nat) (s : State) : (s.setResult v).cid = s.cid := rfl
@[simp] theorem State.setResult_rst (v : Nat) (s : State) : (s.setResult v).rst = s.rst := rfl
@[simp] theorem State.setResult_rdata (v : Nat) (s : State) : (s.setResult v).rdata = s.rdata := rfl
@[simp] theorem State.setResult_inputs (v : Nat) (s : State) : (s.setResult v).inputs = s.inputs := rfl
@[simp] theorem State.setResult_draws (v : Nat) (s : State) : (s.setResult v).draws = s.draws := rfl
end setResult

section commitPtl
@[simp] theorem State.commitPtl_ibufBytes (m : BitVec 3) (f : PtlFields) (s : State) : (s.commitPtl m f).ibufBytes = s.ibufBytes := rfl
@[simp] theorem State.commitPtl_mem (m : BitVec 3) (f : PtlFields) (s : State) : (s.commitPtl m f).mem = s.mem := rfl
@[simp] theorem State.commitPtl_strict (m : BitVec 3) (f : PtlFields) (s : State) : (s.commitPtl m f).strict = s.strict := rfl
@[simp] theorem State.commitPtl_budget (m : BitVec 3) (f : PtlFields) (s : State) : (s.commitPtl m f).budget = s.budget := rfl
@[simp] theorem State.commitPtl_running (m : BitVec 3) (f : PtlFields) (s : State) : (s.commitPtl m f).running = s.running := rfl
@[simp] theorem State.commitPtl_halted (m : BitVec 3) (f : PtlFields) (s : State) : (s.commitPtl m f).halted = s.halted := rfl
@[simp] theorem State.commitPtl_err (m : BitVec 3) (f : PtlFields) (s : State) : (s.commitPtl m f).err = s.err := rfl
@[simp] theorem State.commitPtl_padded (m : BitVec 3) (f : PtlFields) (s : State) : (s.commitPtl m f).padded = s.padded := rfl
@[simp] theorem State.commitPtl_ovr (m : BitVec 3) (f : PtlFields) (s : State) : (s.commitPtl m f).ovr = s.ovr := rfl
@[simp] theorem State.commitPtl_cidv (m : BitVec 3) (f : PtlFields) (s : State) : (s.commitPtl m f).cidv = true := rfl
@[simp] theorem State.commitPtl_len (m : BitVec 3) (f : PtlFields) (s : State) : (s.commitPtl m f).len = s.len := rfl
@[simp] theorem State.commitPtl_result (m : BitVec 3) (f : PtlFields) (s : State) : (s.commitPtl m f).result = s.result := rfl
@[simp] theorem State.commitPtl_bytepos (m : BitVec 3) (f : PtlFields) (s : State) : (s.commitPtl m f).bytepos = s.bytepos := rfl
@[simp] theorem State.commitPtl_cache (m : BitVec 3) (f : PtlFields) (s : State) : (s.commitPtl m f).cache = s.cache := rfl
@[simp] theorem State.commitPtl_cacheBits (m : BitVec 3) (f : PtlFields) (s : State) : (s.commitPtl m f).cacheBits = s.cacheBits := rfl
@[simp] theorem State.commitPtl_hv (m : BitVec 3) (f : PtlFields) (s : State) : (s.commitPtl m f).hv = s.hv := rfl
@[simp] theorem State.commitPtl_h1 (m : BitVec 3) (f : PtlFields) (s : State) : (s.commitPtl m f).h1 = s.h1 := rfl
@[simp] theorem State.commitPtl_h2 (m : BitVec 3) (f : PtlFields) (s : State) : (s.commitPtl m f).h2 = s.h2 := rfl
@[simp] theorem State.commitPtl_consumed (m : BitVec 3) (f : PtlFields) (s : State) : (s.commitPtl m f).consumed = s.consumed := rfl
@[simp] theorem State.commitPtl_errOp (m : BitVec 3) (f : PtlFields) (s : State) : (s.commitPtl m f).errOp = s.errOp := rfl
@[simp] theorem State.commitPtl_errKind (m : BitVec 3) (f : PtlFields) (s : State) : (s.commitPtl m f).errKind = s.errKind := rfl
@[simp] theorem State.commitPtl_errpos (m : BitVec 3) (f : PtlFields) (s : State) : (s.commitPtl m f).errpos = s.errpos := rfl
@[simp] theorem State.commitPtl_ptlGen (m : BitVec 3) (f : PtlFields) (s : State) : (s.commitPtl m f).ptlGen = f.gen m := rfl
@[simp] theorem State.commitPtl_ptlCompat (m : BitVec 3) (f : PtlFields) (s : State) : (s.commitPtl m f).ptlCompat = f.compat := rfl
@[simp] theorem State.commitPtl_ptlConsLo (m : BitVec 3) (f : PtlFields) (s : State) : (s.commitPtl m f).ptlConsLo = f.consLo := rfl
@[simp] theorem State.commitPtl_ptlConsHi (m : BitVec 3) (f : PtlFields) (s : State) : (s.commitPtl m f).ptlConsHi = f.consHi := rfl
@[simp] theorem State.commitPtl_ptlSub (m : BitVec 3) (f : PtlFields) (s : State) : (s.commitPtl m f).ptlSub = subWordFrom 0 f.subLayers := rfl
@[simp] theorem State.commitPtl_cidlen (m : BitVec 3) (f : PtlFields) (s : State) : (s.commitPtl m f).cidlen = BitVec.ofNat 6 f.codecId.length := rfl
@[simp] theorem State.commitPtl_cid (m : BitVec 3) (f : PtlFields) (s : State) : (s.commitPtl m f).cid = cidBytes f.codecId := rfl
@[simp] theorem State.commitPtl_rst (m : BitVec 3) (f : PtlFields) (s : State) : (s.commitPtl m f).rst = s.rst := rfl
@[simp] theorem State.commitPtl_rdata (m : BitVec 3) (f : PtlFields) (s : State) : (s.commitPtl m f).rdata = s.rdata := rfl
@[simp] theorem State.commitPtl_inputs (m : BitVec 3) (f : PtlFields) (s : State) : (s.commitPtl m f).inputs = s.inputs := rfl
@[simp] theorem State.commitPtl_draws (m : BitVec 3) (f : PtlFields) (s : State) : (s.commitPtl m f).draws = s.draws := rfl
end commitPtl

section writeCtrl
@[simp] theorem State.writeCtrl_ibufBytes (v : Word) (s : State) : (s.writeCtrl v).ibufBytes = s.ibufBytes := rfl
@[simp] theorem State.writeCtrl_mem (v : Word) (s : State) : (s.writeCtrl v).mem = s.mem := rfl
@[simp] theorem State.writeCtrl_strict (v : Word) (s : State) : (s.writeCtrl v).strict = v.getLsbD 0 := rfl
@[simp] theorem State.writeCtrl_budget (v : Word) (s : State) : (s.writeCtrl v).budget = v.getLsbD 1 := rfl
@[simp] theorem State.writeCtrl_running (v : Word) (s : State) : (s.writeCtrl v).running = s.running := rfl
@[simp] theorem State.writeCtrl_halted (v : Word) (s : State) : (s.writeCtrl v).halted = s.halted := rfl
@[simp] theorem State.writeCtrl_err (v : Word) (s : State) : (s.writeCtrl v).err = s.err := rfl
@[simp] theorem State.writeCtrl_padded (v : Word) (s : State) : (s.writeCtrl v).padded = s.padded := rfl
@[simp] theorem State.writeCtrl_ovr (v : Word) (s : State) : (s.writeCtrl v).ovr = s.ovr := rfl
@[simp] theorem State.writeCtrl_cidv (v : Word) (s : State) : (s.writeCtrl v).cidv = s.cidv := rfl
@[simp] theorem State.writeCtrl_len (v : Word) (s : State) : (s.writeCtrl v).len = s.len := rfl
@[simp] theorem State.writeCtrl_result (v : Word) (s : State) : (s.writeCtrl v).result = s.result := rfl
@[simp] theorem State.writeCtrl_bytepos (v : Word) (s : State) : (s.writeCtrl v).bytepos = s.bytepos := rfl
@[simp] theorem State.writeCtrl_cache (v : Word) (s : State) : (s.writeCtrl v).cache = s.cache := rfl
@[simp] theorem State.writeCtrl_cacheBits (v : Word) (s : State) : (s.writeCtrl v).cacheBits = s.cacheBits := rfl
@[simp] theorem State.writeCtrl_hv (v : Word) (s : State) : (s.writeCtrl v).hv = s.hv := rfl
@[simp] theorem State.writeCtrl_h1 (v : Word) (s : State) : (s.writeCtrl v).h1 = s.h1 := rfl
@[simp] theorem State.writeCtrl_h2 (v : Word) (s : State) : (s.writeCtrl v).h2 = s.h2 := rfl
@[simp] theorem State.writeCtrl_consumed (v : Word) (s : State) : (s.writeCtrl v).consumed = s.consumed := rfl
@[simp] theorem State.writeCtrl_errOp (v : Word) (s : State) : (s.writeCtrl v).errOp = s.errOp := rfl
@[simp] theorem State.writeCtrl_errKind (v : Word) (s : State) : (s.writeCtrl v).errKind = s.errKind := rfl
@[simp] theorem State.writeCtrl_errpos (v : Word) (s : State) : (s.writeCtrl v).errpos = s.errpos := rfl
@[simp] theorem State.writeCtrl_ptlGen (v : Word) (s : State) : (s.writeCtrl v).ptlGen = s.ptlGen := rfl
@[simp] theorem State.writeCtrl_ptlCompat (v : Word) (s : State) : (s.writeCtrl v).ptlCompat = s.ptlCompat := rfl
@[simp] theorem State.writeCtrl_ptlConsLo (v : Word) (s : State) : (s.writeCtrl v).ptlConsLo = s.ptlConsLo := rfl
@[simp] theorem State.writeCtrl_ptlConsHi (v : Word) (s : State) : (s.writeCtrl v).ptlConsHi = s.ptlConsHi := rfl
@[simp] theorem State.writeCtrl_ptlSub (v : Word) (s : State) : (s.writeCtrl v).ptlSub = s.ptlSub := rfl
@[simp] theorem State.writeCtrl_cidlen (v : Word) (s : State) : (s.writeCtrl v).cidlen = s.cidlen := rfl
@[simp] theorem State.writeCtrl_cid (v : Word) (s : State) : (s.writeCtrl v).cid = s.cid := rfl
@[simp] theorem State.writeCtrl_rst (v : Word) (s : State) : (s.writeCtrl v).rst = s.rst := rfl
@[simp] theorem State.writeCtrl_rdata (v : Word) (s : State) : (s.writeCtrl v).rdata = s.rdata := rfl
@[simp] theorem State.writeCtrl_inputs (v : Word) (s : State) : (s.writeCtrl v).inputs = s.inputs := rfl
@[simp] theorem State.writeCtrl_draws (v : Word) (s : State) : (s.writeCtrl v).draws = s.draws := rfl
end writeCtrl

section setOvr
@[simp] theorem State.setOvr_ibufBytes (s : State) : s.setOvr.ibufBytes = s.ibufBytes := rfl
@[simp] theorem State.setOvr_mem (s : State) : s.setOvr.mem = s.mem := rfl
@[simp] theorem State.setOvr_strict (s : State) : s.setOvr.strict = s.strict := rfl
@[simp] theorem State.setOvr_budget (s : State) : s.setOvr.budget = s.budget := rfl
@[simp] theorem State.setOvr_running (s : State) : s.setOvr.running = s.running := rfl
@[simp] theorem State.setOvr_halted (s : State) : s.setOvr.halted = s.halted := rfl
@[simp] theorem State.setOvr_err (s : State) : s.setOvr.err = s.err := rfl
@[simp] theorem State.setOvr_padded (s : State) : s.setOvr.padded = s.padded := rfl
@[simp] theorem State.setOvr_ovr (s : State) : s.setOvr.ovr = true := rfl
@[simp] theorem State.setOvr_cidv (s : State) : s.setOvr.cidv = s.cidv := rfl
@[simp] theorem State.setOvr_len (s : State) : s.setOvr.len = s.len := rfl
@[simp] theorem State.setOvr_result (s : State) : s.setOvr.result = s.result := rfl
@[simp] theorem State.setOvr_bytepos (s : State) : s.setOvr.bytepos = s.bytepos := rfl
@[simp] theorem State.setOvr_cache (s : State) : s.setOvr.cache = s.cache := rfl
@[simp] theorem State.setOvr_cacheBits (s : State) : s.setOvr.cacheBits = s.cacheBits := rfl
@[simp] theorem State.setOvr_hv (s : State) : s.setOvr.hv = s.hv := rfl
@[simp] theorem State.setOvr_h1 (s : State) : s.setOvr.h1 = s.h1 := rfl
@[simp] theorem State.setOvr_h2 (s : State) : s.setOvr.h2 = s.h2 := rfl
@[simp] theorem State.setOvr_consumed (s : State) : s.setOvr.consumed = s.consumed := rfl
@[simp] theorem State.setOvr_errOp (s : State) : s.setOvr.errOp = s.errOp := rfl
@[simp] theorem State.setOvr_errKind (s : State) : s.setOvr.errKind = s.errKind := rfl
@[simp] theorem State.setOvr_errpos (s : State) : s.setOvr.errpos = s.errpos := rfl
@[simp] theorem State.setOvr_ptlGen (s : State) : s.setOvr.ptlGen = s.ptlGen := rfl
@[simp] theorem State.setOvr_ptlCompat (s : State) : s.setOvr.ptlCompat = s.ptlCompat := rfl
@[simp] theorem State.setOvr_ptlConsLo (s : State) : s.setOvr.ptlConsLo = s.ptlConsLo := rfl
@[simp] theorem State.setOvr_ptlConsHi (s : State) : s.setOvr.ptlConsHi = s.ptlConsHi := rfl
@[simp] theorem State.setOvr_ptlSub (s : State) : s.setOvr.ptlSub = s.ptlSub := rfl
@[simp] theorem State.setOvr_cidlen (s : State) : s.setOvr.cidlen = s.cidlen := rfl
@[simp] theorem State.setOvr_cid (s : State) : s.setOvr.cid = s.cid := rfl
@[simp] theorem State.setOvr_rst (s : State) : s.setOvr.rst = s.rst := rfl
@[simp] theorem State.setOvr_rdata (s : State) : s.setOvr.rdata = s.rdata := rfl
@[simp] theorem State.setOvr_inputs (s : State) : s.setOvr.inputs = s.inputs := rfl
@[simp] theorem State.setOvr_draws (s : State) : s.setOvr.draws = s.draws := rfl
end setOvr

section writeLen
@[simp] theorem State.writeLen_ibufBytes (v : Word) (s : State) : (s.writeLen v).ibufBytes = s.ibufBytes := rfl
@[simp] theorem State.writeLen_mem (v : Word) (s : State) : (s.writeLen v).mem = s.mem := rfl
@[simp] theorem State.writeLen_strict (v : Word) (s : State) : (s.writeLen v).strict = s.strict := rfl
@[simp] theorem State.writeLen_budget (v : Word) (s : State) : (s.writeLen v).budget = s.budget := rfl
@[simp] theorem State.writeLen_running (v : Word) (s : State) : (s.writeLen v).running = s.running := rfl
@[simp] theorem State.writeLen_halted (v : Word) (s : State) : (s.writeLen v).halted = s.halted := rfl
@[simp] theorem State.writeLen_err (v : Word) (s : State) : (s.writeLen v).err = s.err := rfl
@[simp] theorem State.writeLen_padded (v : Word) (s : State) : (s.writeLen v).padded = s.padded := rfl
@[simp] theorem State.writeLen_ovr (v : Word) (s : State) : (s.writeLen v).ovr = s.ovr := rfl
@[simp] theorem State.writeLen_cidv (v : Word) (s : State) : (s.writeLen v).cidv = s.cidv := rfl
@[simp] theorem State.writeLen_len (v : Word) (s : State) : (s.writeLen v).len = BitVec.ofNat 16 (min (v.extractLsb' 0 16).toNat s.ibufBytes) := rfl
@[simp] theorem State.writeLen_result (v : Word) (s : State) : (s.writeLen v).result = s.result := rfl
@[simp] theorem State.writeLen_bytepos (v : Word) (s : State) : (s.writeLen v).bytepos = s.bytepos := rfl
@[simp] theorem State.writeLen_cache (v : Word) (s : State) : (s.writeLen v).cache = s.cache := rfl
@[simp] theorem State.writeLen_cacheBits (v : Word) (s : State) : (s.writeLen v).cacheBits = s.cacheBits := rfl
@[simp] theorem State.writeLen_hv (v : Word) (s : State) : (s.writeLen v).hv = s.hv := rfl
@[simp] theorem State.writeLen_h1 (v : Word) (s : State) : (s.writeLen v).h1 = s.h1 := rfl
@[simp] theorem State.writeLen_h2 (v : Word) (s : State) : (s.writeLen v).h2 = s.h2 := rfl
@[simp] theorem State.writeLen_consumed (v : Word) (s : State) : (s.writeLen v).consumed = s.consumed := rfl
@[simp] theorem State.writeLen_errOp (v : Word) (s : State) : (s.writeLen v).errOp = s.errOp := rfl
@[simp] theorem State.writeLen_errKind (v : Word) (s : State) : (s.writeLen v).errKind = s.errKind := rfl
@[simp] theorem State.writeLen_errpos (v : Word) (s : State) : (s.writeLen v).errpos = s.errpos := rfl
@[simp] theorem State.writeLen_ptlGen (v : Word) (s : State) : (s.writeLen v).ptlGen = s.ptlGen := rfl
@[simp] theorem State.writeLen_ptlCompat (v : Word) (s : State) : (s.writeLen v).ptlCompat = s.ptlCompat := rfl
@[simp] theorem State.writeLen_ptlConsLo (v : Word) (s : State) : (s.writeLen v).ptlConsLo = s.ptlConsLo := rfl
@[simp] theorem State.writeLen_ptlConsHi (v : Word) (s : State) : (s.writeLen v).ptlConsHi = s.ptlConsHi := rfl
@[simp] theorem State.writeLen_ptlSub (v : Word) (s : State) : (s.writeLen v).ptlSub = s.ptlSub := rfl
@[simp] theorem State.writeLen_cidlen (v : Word) (s : State) : (s.writeLen v).cidlen = s.cidlen := rfl
@[simp] theorem State.writeLen_cid (v : Word) (s : State) : (s.writeLen v).cid = s.cid := rfl
@[simp] theorem State.writeLen_rst (v : Word) (s : State) : (s.writeLen v).rst = s.rst := rfl
@[simp] theorem State.writeLen_rdata (v : Word) (s : State) : (s.writeLen v).rdata = s.rdata := rfl
@[simp] theorem State.writeLen_inputs (v : Word) (s : State) : (s.writeLen v).inputs = s.inputs := rfl
@[simp] theorem State.writeLen_draws (v : Word) (s : State) : (s.writeLen v).draws = s.draws := rfl
end writeLen

section returnWord
@[simp] theorem State.returnWord_ibufBytes (v : Word) (s : State) : (s.returnWord v).ibufBytes = s.ibufBytes := rfl
@[simp] theorem State.returnWord_mem (v : Word) (s : State) : (s.returnWord v).mem = s.mem := rfl
@[simp] theorem State.returnWord_strict (v : Word) (s : State) : (s.returnWord v).strict = s.strict := rfl
@[simp] theorem State.returnWord_budget (v : Word) (s : State) : (s.returnWord v).budget = s.budget := rfl
@[simp] theorem State.returnWord_running (v : Word) (s : State) : (s.returnWord v).running = s.running := rfl
@[simp] theorem State.returnWord_halted (v : Word) (s : State) : (s.returnWord v).halted = s.halted := rfl
@[simp] theorem State.returnWord_err (v : Word) (s : State) : (s.returnWord v).err = s.err := rfl
@[simp] theorem State.returnWord_padded (v : Word) (s : State) : (s.returnWord v).padded = s.padded := rfl
@[simp] theorem State.returnWord_ovr (v : Word) (s : State) : (s.returnWord v).ovr = s.ovr := rfl
@[simp] theorem State.returnWord_cidv (v : Word) (s : State) : (s.returnWord v).cidv = s.cidv := rfl
@[simp] theorem State.returnWord_len (v : Word) (s : State) : (s.returnWord v).len = s.len := rfl
@[simp] theorem State.returnWord_result (v : Word) (s : State) : (s.returnWord v).result = s.result := rfl
@[simp] theorem State.returnWord_bytepos (v : Word) (s : State) : (s.returnWord v).bytepos = s.bytepos := rfl
@[simp] theorem State.returnWord_cache (v : Word) (s : State) : (s.returnWord v).cache = s.cache := rfl
@[simp] theorem State.returnWord_cacheBits (v : Word) (s : State) : (s.returnWord v).cacheBits = s.cacheBits := rfl
@[simp] theorem State.returnWord_hv (v : Word) (s : State) : (s.returnWord v).hv = s.hv := rfl
@[simp] theorem State.returnWord_h1 (v : Word) (s : State) : (s.returnWord v).h1 = s.h1 := rfl
@[simp] theorem State.returnWord_h2 (v : Word) (s : State) : (s.returnWord v).h2 = s.h2 := rfl
@[simp] theorem State.returnWord_consumed (v : Word) (s : State) : (s.returnWord v).consumed = s.consumed := rfl
@[simp] theorem State.returnWord_errOp (v : Word) (s : State) : (s.returnWord v).errOp = s.errOp := rfl
@[simp] theorem State.returnWord_errKind (v : Word) (s : State) : (s.returnWord v).errKind = s.errKind := rfl
@[simp] theorem State.returnWord_errpos (v : Word) (s : State) : (s.returnWord v).errpos = s.errpos := rfl
@[simp] theorem State.returnWord_ptlGen (v : Word) (s : State) : (s.returnWord v).ptlGen = s.ptlGen := rfl
@[simp] theorem State.returnWord_ptlCompat (v : Word) (s : State) : (s.returnWord v).ptlCompat = s.ptlCompat := rfl
@[simp] theorem State.returnWord_ptlConsLo (v : Word) (s : State) : (s.returnWord v).ptlConsLo = s.ptlConsLo := rfl
@[simp] theorem State.returnWord_ptlConsHi (v : Word) (s : State) : (s.returnWord v).ptlConsHi = s.ptlConsHi := rfl
@[simp] theorem State.returnWord_ptlSub (v : Word) (s : State) : (s.returnWord v).ptlSub = s.ptlSub := rfl
@[simp] theorem State.returnWord_cidlen (v : Word) (s : State) : (s.returnWord v).cidlen = s.cidlen := rfl
@[simp] theorem State.returnWord_cid (v : Word) (s : State) : (s.returnWord v).cid = s.cid := rfl
@[simp] theorem State.returnWord_rst (v : Word) (s : State) : (s.returnWord v).rst = s.rst := rfl
@[simp] theorem State.returnWord_rdata (v : Word) (s : State) : (s.returnWord v).rdata = v := rfl
@[simp] theorem State.returnWord_inputs (v : Word) (s : State) : (s.returnWord v).inputs = s.inputs := rfl
@[simp] theorem State.returnWord_draws (v : Word) (s : State) : (s.returnWord v).draws = s.draws := rfl
end returnWord

section accept
@[simp] theorem State.accept_ibufBytes (w : Word) (s : State) : (s.accept w).ibufBytes = s.ibufBytes := rfl
@[simp] theorem State.accept_mem (w : Word) (s : State) : (s.accept w).mem = s.mem := rfl
@[simp] theorem State.accept_strict (w : Word) (s : State) : (s.accept w).strict = s.strict := rfl
@[simp] theorem State.accept_budget (w : Word) (s : State) : (s.accept w).budget = s.budget := rfl
@[simp] theorem State.accept_running (w : Word) (s : State) : (s.accept w).running = some w := rfl
@[simp] theorem State.accept_halted (w : Word) (s : State) : (s.accept w).halted = s.halted := rfl
@[simp] theorem State.accept_err (w : Word) (s : State) : (s.accept w).err = s.err := rfl
@[simp] theorem State.accept_padded (w : Word) (s : State) : (s.accept w).padded = s.padded := rfl
@[simp] theorem State.accept_ovr (w : Word) (s : State) : (s.accept w).ovr = s.ovr := rfl
@[simp] theorem State.accept_cidv (w : Word) (s : State) : (s.accept w).cidv = s.cidv := rfl
@[simp] theorem State.accept_len (w : Word) (s : State) : (s.accept w).len = s.len := rfl
@[simp] theorem State.accept_result (w : Word) (s : State) : (s.accept w).result = s.result := rfl
@[simp] theorem State.accept_bytepos (w : Word) (s : State) : (s.accept w).bytepos = s.bytepos := rfl
@[simp] theorem State.accept_cache (w : Word) (s : State) : (s.accept w).cache = s.cache := rfl
@[simp] theorem State.accept_cacheBits (w : Word) (s : State) : (s.accept w).cacheBits = s.cacheBits := rfl
@[simp] theorem State.accept_hv (w : Word) (s : State) : (s.accept w).hv = s.hv := rfl
@[simp] theorem State.accept_h1 (w : Word) (s : State) : (s.accept w).h1 = s.h1 := rfl
@[simp] theorem State.accept_h2 (w : Word) (s : State) : (s.accept w).h2 = s.h2 := rfl
@[simp] theorem State.accept_consumed (w : Word) (s : State) : (s.accept w).consumed = s.consumed := rfl
@[simp] theorem State.accept_errOp (w : Word) (s : State) : (s.accept w).errOp = s.errOp := rfl
@[simp] theorem State.accept_errKind (w : Word) (s : State) : (s.accept w).errKind = s.errKind := rfl
@[simp] theorem State.accept_errpos (w : Word) (s : State) : (s.accept w).errpos = s.errpos := rfl
@[simp] theorem State.accept_ptlGen (w : Word) (s : State) : (s.accept w).ptlGen = s.ptlGen := rfl
@[simp] theorem State.accept_ptlCompat (w : Word) (s : State) : (s.accept w).ptlCompat = s.ptlCompat := rfl
@[simp] theorem State.accept_ptlConsLo (w : Word) (s : State) : (s.accept w).ptlConsLo = s.ptlConsLo := rfl
@[simp] theorem State.accept_ptlConsHi (w : Word) (s : State) : (s.accept w).ptlConsHi = s.ptlConsHi := rfl
@[simp] theorem State.accept_ptlSub (w : Word) (s : State) : (s.accept w).ptlSub = s.ptlSub := rfl
@[simp] theorem State.accept_cidlen (w : Word) (s : State) : (s.accept w).cidlen = s.cidlen := rfl
@[simp] theorem State.accept_cid (w : Word) (s : State) : (s.accept w).cid = s.cid := rfl
@[simp] theorem State.accept_rst (w : Word) (s : State) : (s.accept w).rst = s.rst := rfl
@[simp] theorem State.accept_rdata (w : Word) (s : State) : (s.accept w).rdata = s.rdata := rfl
@[simp] theorem State.accept_inputs (w : Word) (s : State) : (s.accept w).inputs = s.inputs := rfl
@[simp] theorem State.accept_draws (w : Word) (s : State) : (s.accept w).draws = s.draws := rfl
end accept

section setInputs
@[simp] theorem State.setInputs_ibufBytes (rest : List Input) (s : State) : (s.setInputs rest).ibufBytes = s.ibufBytes := rfl
@[simp] theorem State.setInputs_mem (rest : List Input) (s : State) : (s.setInputs rest).mem = s.mem := rfl
@[simp] theorem State.setInputs_strict (rest : List Input) (s : State) : (s.setInputs rest).strict = s.strict := rfl
@[simp] theorem State.setInputs_budget (rest : List Input) (s : State) : (s.setInputs rest).budget = s.budget := rfl
@[simp] theorem State.setInputs_running (rest : List Input) (s : State) : (s.setInputs rest).running = s.running := rfl
@[simp] theorem State.setInputs_halted (rest : List Input) (s : State) : (s.setInputs rest).halted = s.halted := rfl
@[simp] theorem State.setInputs_err (rest : List Input) (s : State) : (s.setInputs rest).err = s.err := rfl
@[simp] theorem State.setInputs_padded (rest : List Input) (s : State) : (s.setInputs rest).padded = s.padded := rfl
@[simp] theorem State.setInputs_ovr (rest : List Input) (s : State) : (s.setInputs rest).ovr = s.ovr := rfl
@[simp] theorem State.setInputs_cidv (rest : List Input) (s : State) : (s.setInputs rest).cidv = s.cidv := rfl
@[simp] theorem State.setInputs_len (rest : List Input) (s : State) : (s.setInputs rest).len = s.len := rfl
@[simp] theorem State.setInputs_result (rest : List Input) (s : State) : (s.setInputs rest).result = s.result := rfl
@[simp] theorem State.setInputs_bytepos (rest : List Input) (s : State) : (s.setInputs rest).bytepos = s.bytepos := rfl
@[simp] theorem State.setInputs_cache (rest : List Input) (s : State) : (s.setInputs rest).cache = s.cache := rfl
@[simp] theorem State.setInputs_cacheBits (rest : List Input) (s : State) : (s.setInputs rest).cacheBits = s.cacheBits := rfl
@[simp] theorem State.setInputs_hv (rest : List Input) (s : State) : (s.setInputs rest).hv = s.hv := rfl
@[simp] theorem State.setInputs_h1 (rest : List Input) (s : State) : (s.setInputs rest).h1 = s.h1 := rfl
@[simp] theorem State.setInputs_h2 (rest : List Input) (s : State) : (s.setInputs rest).h2 = s.h2 := rfl
@[simp] theorem State.setInputs_consumed (rest : List Input) (s : State) : (s.setInputs rest).consumed = s.consumed := rfl
@[simp] theorem State.setInputs_errOp (rest : List Input) (s : State) : (s.setInputs rest).errOp = s.errOp := rfl
@[simp] theorem State.setInputs_errKind (rest : List Input) (s : State) : (s.setInputs rest).errKind = s.errKind := rfl
@[simp] theorem State.setInputs_errpos (rest : List Input) (s : State) : (s.setInputs rest).errpos = s.errpos := rfl
@[simp] theorem State.setInputs_ptlGen (rest : List Input) (s : State) : (s.setInputs rest).ptlGen = s.ptlGen := rfl
@[simp] theorem State.setInputs_ptlCompat (rest : List Input) (s : State) : (s.setInputs rest).ptlCompat = s.ptlCompat := rfl
@[simp] theorem State.setInputs_ptlConsLo (rest : List Input) (s : State) : (s.setInputs rest).ptlConsLo = s.ptlConsLo := rfl
@[simp] theorem State.setInputs_ptlConsHi (rest : List Input) (s : State) : (s.setInputs rest).ptlConsHi = s.ptlConsHi := rfl
@[simp] theorem State.setInputs_ptlSub (rest : List Input) (s : State) : (s.setInputs rest).ptlSub = s.ptlSub := rfl
@[simp] theorem State.setInputs_cidlen (rest : List Input) (s : State) : (s.setInputs rest).cidlen = s.cidlen := rfl
@[simp] theorem State.setInputs_cid (rest : List Input) (s : State) : (s.setInputs rest).cid = s.cid := rfl
@[simp] theorem State.setInputs_rst (rest : List Input) (s : State) : (s.setInputs rest).rst = s.rst := rfl
@[simp] theorem State.setInputs_rdata (rest : List Input) (s : State) : (s.setInputs rest).rdata = s.rdata := rfl
@[simp] theorem State.setInputs_inputs (rest : List Input) (s : State) : (s.setInputs rest).inputs = rest := rfl
@[simp] theorem State.setInputs_draws (rest : List Input) (s : State) : (s.setInputs rest).draws = s.draws := rfl
end setInputs

end Sys2Proof.Machine
end

