-- ==== Sys2Proof/Laws/Memory.lean ====
section
/-! SUPPORT. What the operations on IBUF do: read after write, the canonical form kept, observing a byte. -/
namespace Sys2Proof.Machine

@[simp] theorem Memory.read_nil (a : Nat) : Memory.read [] a = none := rfl

/-- A read after a write: the byte written at its index, every other index as before. -/
theorem Memory.read_write (m : Memory) (a : Nat) (v : Byte) (i : Nat) :
    (m.write a v).read i = if i = a then some v else m.read i := by
  induction m with
  | nil => simp [Memory.write, Memory.read, eq_comm]
  | cons c rest ih =>
    obtain ⟨k, b⟩ := c
    simp only [Memory.write]
    split
    · simp [Memory.read, eq_comm]
    · split
      · subst a
        by_cases h : k = i <;> simp [Memory.read, h, eq_comm]
        intro hi
        exact absurd hi.symm h
      · simp only [Memory.read, ih]
        by_cases h : k = i
        · have : i ≠ a := by omega
          simp [h, this]
        · simp [h]

@[simp] theorem Memory.read_write_same (m : Memory) (a : Nat) (v : Byte) : (m.write a v).read a = some v := by
  simp [Memory.read_write]

theorem Memory.read_write_other (m : Memory) (a i : Nat) (v : Byte) (h : i ≠ a) :
    (m.write a v).read i = m.read i := by
  simp [Memory.read_write, h]

/-- The canonical form of a nonempty listing: its first index lies below every other, and the rest is canonical. -/
theorem Memory.wf_cons (k : Nat) (b : Byte) (rest : Memory) :
    Memory.wf ((k, b) :: rest) = true ↔ (∀ c ∈ rest, k < c.1) ∧ Memory.wf rest = true := by
  induction rest generalizing k b with
  | nil => simp [Memory.wf]
  | cons c rest ih =>
    obtain ⟨k', b'⟩ := c
    simp only [Memory.wf, Bool.and_eq_true, decide_eq_true_eq, List.mem_cons, forall_eq_or_imp]
    constructor
    · rintro ⟨h, hw⟩
      exact ⟨⟨h, fun c hc => lt_trans h ((ih k' b').1 hw |>.1 c hc)⟩, hw⟩
    · rintro ⟨⟨h, -⟩, hw⟩
      exact ⟨h, hw⟩

/-- The indices listed after a write: those listed before, and the one written. -/
theorem Memory.mem_write {m : Memory} {a : Nat} {v : Byte} {c : Host.Cell} (h : c ∈ m.write a v) :
    c = (a, v) ∨ c ∈ m := by
  induction m with
  | nil => simpa [Memory.write] using h
  | cons d rest ih =>
    obtain ⟨k, b⟩ := d
    simp only [Memory.write] at h
    split at h
    · simpa using h
    · split at h
      · rcases List.mem_cons.1 h with h | h
        · exact .inl h
        · exact .inr (List.mem_cons_of_mem _ h)
      · rcases List.mem_cons.1 h with h | h
        · exact .inr (h ▸ List.mem_cons_self ..)
        · exact (ih h).imp id (List.mem_cons_of_mem _)

/-- A write keeps the canonical form. -/
theorem Memory.wf_write (m : Memory) (a : Nat) (v : Byte) (h : m.wf = true) : (m.write a v).wf = true := by
  induction m with
  | nil => rfl
  | cons c rest ih =>
    obtain ⟨k, b⟩ := c
    obtain ⟨hk, hr⟩ := (Memory.wf_cons k b rest).1 h
    simp only [Memory.write]
    split
    · rename_i hlt
      refine (Memory.wf_cons ..).2 ⟨fun c hc => ?_, h⟩
      rcases List.mem_cons.1 hc with rfl | hc
      · exact hlt
      · exact lt_trans hlt (hk c hc)
    · split
      · rename_i heq
        exact (Memory.wf_cons ..).2 ⟨heq ▸ hk, hr⟩
      · refine (Memory.wf_cons ..).2 ⟨fun c hc => ?_, ih hr⟩
        rcases Memory.mem_write hc with rfl | hc
        · show k < a
          omega
        · exact hk c hc

/-- Reset memory is canonical. -/
theorem Memory.wf_nil : Memory.wf [] = true := rfl

/-- Observing a byte returns the byte written, with nothing changed, or a draw. -/
theorem observeByte_cases (a : Nat) (s : State) :
    (∃ b, s.mem.read a = some b ∧ observeByte a s = (b, s)) ∨
      (s.mem.read a = none ∧ observeByte a s = (Config.freeByte s.draws, s.draw)) := by
  unfold observeByte
  cases h : s.mem.read a with
  | some b => exact .inl ⟨b, rfl, rfl⟩
  | none => exact .inr ⟨rfl, rfl⟩

/-- What MemRead does (R50): outside IBUF the model stops; inside, the byte written or a draw. -/
theorem memRead_cases (a : Nat) (s : State) :
    (s.ibufBytes ≤ a ∧ memRead a s = .stop (.ibufIndexOutside a)) ∨
      (a < s.ibufBytes ∧ ∃ b, s.mem.read a = some b ∧ memRead a s = .ok b s) ∨
      (a < s.ibufBytes ∧ s.mem.read a = none ∧ memRead a s = .ok (Config.freeByte s.draws) s.draw) := by
  unfold memRead
  split
  · rename_i h
    rcases observeByte_cases a s with ⟨b, hb, ho⟩ | ⟨hb, ho⟩
    · exact .inr (.inl ⟨h, b, hb, by rw [ho]⟩)
    · exact .inr (.inr ⟨h, hb, by rw [ho]⟩)
  · rename_i h
    exact .inl ⟨Nat.le_of_not_lt h, rfl⟩

end Sys2Proof.Machine
end

