-- ==== Sys2Proof/Laws/Cursor.lean ====
section
/-! SUPPORT. What the bit cursor's primitives can do: one lemma per primitive that lists its outcomes, the frame common
to all of them (`Moves`), and how reads of bits compose. Provers cite these instead of unfolding the primitives. -/
namespace Sys2Proof.Machine

/-! ### Outcomes of a part of a command -/

/-- The state an outcome carries, if it carries one, satisfies `P`. -/
def Res.Holds {α : Type} (P : State → Prop) : Res α → Prop
  | .ok _ t => P t
  | .raise _ t => P t
  | .stop _ => True

@[simp] theorem Res.holds_ok {α : Type} (P : State → Prop) (a : α) (t : State) : (Res.ok a t).Holds P ↔ P t := Iff.rfl
@[simp] theorem Res.holds_raise {α : Type} (P : State → Prop) (e : Raise) (t : State) :
    (Res.raise e t : Res α).Holds P ↔ P t := Iff.rfl
@[simp] theorem Res.holds_stop {α : Type} (P : State → Prop) (f : Fault) : (Res.stop f : Res α).Holds P := trivial

@[simp] theorem Res.ok_andThen {α β : Type} (a : α) (s : State) (f : α → State → Res β) :
    (Res.ok a s).andThen f = f a s := rfl
@[simp] theorem Res.raise_andThen {α β : Type} (e : Raise) (s : State) (f : α → State → Res β) :
    (Res.raise e s : Res α).andThen f = .raise e s := rfl
@[simp] theorem Res.stop_andThen {α β : Type} (x : Fault) (f : α → State → Res β) :
    (Res.stop x : Res α).andThen f = .stop x := rfl

theorem Res.andThen_assoc {α β γ : Type} (r : Res α) (f : α → State → Res β) (g : β → State → Res γ) :
    (r.andThen f).andThen g = r.andThen fun a s => (f a s).andThen g := by
  cases r <;> rfl

/-- `andThen` completes exactly when both parts do. -/
theorem Res.andThen_eq_ok {α β : Type} {r : Res α} {f : α → State → Res β} {b : β} {u : State} :
    r.andThen f = .ok b u ↔ ∃ a t, r = .ok a t ∧ f a t = .ok b u := by
  cases r <;> simp [Res.andThen]

/-- `andThen` raises when the first part does, or when it completes and the second part does. -/
theorem Res.andThen_eq_raise {α β : Type} {r : Res α} {f : α → State → Res β} {e : Raise} {u : State} :
    r.andThen f = .raise e u ↔ r = .raise e u ∨ ∃ a t, r = .ok a t ∧ f a t = .raise e u := by
  cases r <;> simp [Res.andThen]

theorem Res.Holds.mono {α : Type} {P Q : State → Prop} {r : Res α} (h : r.Holds P) (hPQ : ∀ t, P t → Q t) :
    r.Holds Q := by
  cases r with
  | ok a t => exact hPQ t h
  | raise e t => exact hPQ t h
  | stop x => trivial

/-- What holds of the first part's state and is kept by the second holds of the whole. -/
theorem Res.Holds.andThen {α β : Type} {P Q : State → Prop} {r : Res α} {f : α → State → Res β} (h : r.Holds P)
    (hPQ : ∀ t, P t → Q t) (hf : ∀ a t, r = .ok a t → P t → (f a t).Holds Q) : (r.andThen f).Holds Q := by
  cases r with
  | ok a t => exact hf a t rfl h
  | raise e t => exact hPQ t h
  | stop x => trivial

/-- The error an outcome carries, if it carries one, satisfies `P`. -/
def Res.RaisesOnly {α : Type} (P : Raise → Prop) : Res α → Prop
  | .ok _ _ => True
  | .raise e _ => P e
  | .stop _ => True

@[simp] theorem Res.raisesOnly_ok {α : Type} (P : Raise → Prop) (a : α) (t : State) : (Res.ok a t).RaisesOnly P :=
  trivial
@[simp] theorem Res.raisesOnly_raise {α : Type} (P : Raise → Prop) (e : Raise) (t : State) :
    (Res.raise e t : Res α).RaisesOnly P ↔ P e := Iff.rfl
@[simp] theorem Res.raisesOnly_stop {α : Type} (P : Raise → Prop) (f : Fault) : (Res.stop f : Res α).RaisesOnly P :=
  trivial

theorem Res.RaisesOnly.of_eq {α : Type} {P : Raise → Prop} {r : Res α} {e : Raise} {t : State} (h : r.RaisesOnly P)
    (hr : r = .raise e t) : P e := by
  rw [hr] at h
  exact h

theorem Res.RaisesOnly.mono {α : Type} {P Q : Raise → Prop} {r : Res α} (h : r.RaisesOnly P) (hPQ : ∀ e, P e → Q e) :
    r.RaisesOnly Q := by
  cases r with
  | ok a t => trivial
  | raise e t => exact hPQ e h
  | stop x => trivial

/-- Errors of the first part and errors of the second part, where the second starts from a state the first can leave. -/
theorem Res.RaisesOnly.andThen {α β : Type} {P : Raise → Prop} {Q : State → Prop} {r : Res α}
    {f : α → State → Res β} (h : r.RaisesOnly P) (hq : r.Holds Q)
    (hf : ∀ a t, r = .ok a t → Q t → (f a t).RaisesOnly P) : (r.andThen f).RaisesOnly P := by
  cases r with
  | ok a t => exact hf a t rfl hq
  | raise e t => exact h
  | stop x => trivial

/-! ### The frame of every primitive -/

/-- `t` comes from `s` by moving the cursor: only BYTEPOS, CURSOR, CONSUMED, PADDED and the draw counter may differ, the
position does not move backwards, and PADDED is not cleared. -/
structure Moves (s t : State) : Prop where
  rest : t = { s with
    bytepos := t.bytepos, cache := t.cache, cacheBits := t.cacheBits, hv := t.hv, h1 := t.h1, h2 := t.h2,
    consumed := t.consumed, padded := t.padded, draws := t.draws }
  bytepos : s.bytepos.toNat ≤ t.bytepos.toNat
  consumed : s.consumed.toNat ≤ t.consumed.toNat
  padded : s.padded = true → t.padded = true
  draws : s.draws ≤ t.draws

theorem Moves.refl (s : State) : Moves s s := ⟨rfl, le_rfl, le_rfl, id, le_rfl⟩

theorem Moves.trans {s t u : State} (h : Moves s t) (k : Moves t u) : Moves s u where
  rest := by rw [k.rest, h.rest]
  bytepos := le_trans h.bytepos k.bytepos
  consumed := le_trans h.consumed k.consumed
  padded := fun hp => k.padded (h.padded hp)
  draws := le_trans h.draws k.draws

section MovesFields
variable {s t : State} (h : Moves s t)
include h
theorem Moves.mem : t.mem = s.mem := by rw [h.rest]
theorem Moves.ibufBytes : t.ibufBytes = s.ibufBytes := by rw [h.rest]
theorem Moves.strict : t.strict = s.strict := by rw [h.rest]
theorem Moves.budget : t.budget = s.budget := by rw [h.rest]
theorem Moves.len : t.len = s.len := by rw [h.rest]
theorem Moves.running : t.running = s.running := by rw [h.rest]
theorem Moves.halted : t.halted = s.halted := by rw [h.rest]
theorem Moves.err : t.err = s.err := by rw [h.rest]
theorem Moves.errOp : t.errOp = s.errOp := by rw [h.rest]
theorem Moves.errKind : t.errKind = s.errKind := by rw [h.rest]
theorem Moves.errpos : t.errpos = s.errpos := by rw [h.rest]
theorem Moves.ovr : t.ovr = s.ovr := by rw [h.rest]
theorem Moves.cidv : t.cidv = s.cidv := by rw [h.rest]
theorem Moves.result : t.result = s.result := by rw [h.rest]
theorem Moves.ptlGen : t.ptlGen = s.ptlGen := by rw [h.rest]
theorem Moves.ptlCompat : t.ptlCompat = s.ptlCompat := by rw [h.rest]
theorem Moves.ptlConsLo : t.ptlConsLo = s.ptlConsLo := by rw [h.rest]
theorem Moves.ptlConsHi : t.ptlConsHi = s.ptlConsHi := by rw [h.rest]
theorem Moves.ptlSub : t.ptlSub = s.ptlSub := by rw [h.rest]
theorem Moves.cidlen : t.cidlen = s.cidlen := by rw [h.rest]
theorem Moves.cid : t.cid = s.cid := by rw [h.rest]
theorem Moves.rst : t.rst = s.rst := by rw [h.rest]
theorem Moves.rdata : t.rdata = s.rdata := by rw [h.rest]
theorem Moves.inputs : t.inputs = s.inputs := by rw [h.rest]
end MovesFields

theorem draw_moves (s : State) : Moves s s.draw := ⟨rfl, le_rfl, le_rfl, id, Nat.le_succ _⟩

theorem setPadded_moves (s : State) : Moves s s.setPadded := ⟨rfl, le_rfl, le_rfl, fun _ => rfl, le_rfl⟩

theorem fillCache_moves (b : Byte) (s : State) : Moves s (s.fillCache b) := ⟨rfl, le_rfl, le_rfl, id, le_rfl⟩

/-- CONSUMED saturates (R29). -/
theorem satAdd_toNat (c : Word) (n : Nat) : (satAdd c n).toNat = min (c.toNat + n) 0xFFFFFFFF := by
  have h : min (c.toNat + n) 0xFFFFFFFF < 2 ^ 32 := by omega
  exact (BitVec.toNat_ofNat _ _).trans (Nat.mod_eq_of_lt h)

/-- Counting bits in two parts is counting them together. -/
theorem satAdd_satAdd (c : Word) (a b : Nat) : satAdd (satAdd c a) b = satAdd c (a + b) := by
  apply BitVec.eq_of_toNat_eq
  simp only [satAdd_toNat]
  omega

theorem satAdd_zero (c : Word) : satAdd c 0 = c := by
  apply BitVec.eq_of_toNat_eq
  have := c.isLt
  simp only [satAdd_toNat]
  omega

theorem countBit_moves (s : State) : Moves s s.countBit where
  rest := rfl
  bytepos := le_rfl
  consumed := by
    have := s.consumed.isLt
    simp only [State.countBit_consumed, satAdd_toNat]
    omega
  padded := id
  draws := le_rfl

/-- Below LEN the position does not wrap. -/
theorem takeRaw_bytepos_toNat (b : Byte) (s : State) (h : s.bytepos.toNat < s.len.toNat) :
    (s.takeRaw b).bytepos.toNat = s.bytepos.toNat + 1 := by
  have := s.len.isLt
  have one : (1 : BitVec 16).toNat = 1 := rfl
  simp only [State.takeRaw_bytepos, BitVec.toNat_add, one]
  omega

theorem takeRaw_moves (b : Byte) (s : State) (h : s.bytepos.toNat < s.len.toNat) : Moves s (s.takeRaw b) where
  rest := rfl
  bytepos := by rw [takeRaw_bytepos_toNat b s h]; exact Nat.le_succ _
  consumed := le_rfl
  padded := id
  draws := le_rfl

/-! ### FetchDelivered -/

/-- MemRead moves nothing but the draw counter. -/
theorem memRead_moves (a : Nat) (s : State) : (memRead a s).Holds (Moves s) := by
  rcases memRead_cases a s with ⟨-, h⟩ | ⟨-, b, -, h⟩ | ⟨-, -, h⟩ <;> rw [h]
  · trivial
  · exact Moves.refl s
  · exact draw_moves s

/-- After a drop the history's last byte is 0x03, so the next byte is not dropped (R60). -/
theorem drops_takeRaw (s : State) (b c : Byte) (h : s.drops b = true) : (s.takeRaw b).drops c = false := by
  simp only [State.drops, Bool.and_eq_true, beq_iff_eq] at h
  simp [State.drops, h.1.1.1]

/-- Pad or BufferExhausted, by the mode (R58, R59). -/
theorem fetchPastEnd_cases (s : State) :
    (s.strict = true ∧ fetchPastEnd s = .raise .strictEnd s) ∨
      (s.strict = false ∧ fetchPastEnd s = .ok 0x00 s.setPadded) := by
  cases h : s.strict <;> simp [fetchPastEnd, h]

/-- What a fetch changes: no bit is consumed and the bit cache is not touched (R58, R61). -/
structure Fetches (s t : State) : Prop extends Moves s t where
  cache : t.cache = s.cache
  cacheBits : t.cacheBits = s.cacheBits
  sameConsumed : t.consumed = s.consumed

theorem fetchLoop_fetches (left : Nat) (s : State) (h : left ≤ s.len.toNat - s.bytepos.toNat) :
    (fetchLoop left s).Holds (Fetches s) := by
  induction left generalizing s with
  | zero =>
    simp only [fetchLoop]
    rcases fetchPastEnd_cases s with ⟨-, hp⟩ | ⟨-, hp⟩ <;> rw [hp]
    · exact ⟨Moves.refl s, rfl, rfl, rfl⟩
    · exact ⟨setPadded_moves s, rfl, rfl, rfl⟩
  | succ left ih =>
    have key : ∀ (b : Byte) (s' : State), Fetches s s' → s'.bytepos = s.bytepos →
        (if s'.drops b then fetchLoop left (s'.takeRaw b) else Res.ok b (s'.takeRaw b)).Holds (Fetches s) := by
      intro b s' hs hb
      have hlt : s'.bytepos.toNat < s'.len.toNat := by rw [hb, hs.len]; omega
      have hm : Fetches s (s'.takeRaw b) :=
        ⟨hs.toMoves.trans (takeRaw_moves b s' hlt), hs.cache, hs.cacheBits, hs.sameConsumed⟩
      split
      · have hi := ih (s'.takeRaw b) (by rw [takeRaw_bytepos_toNat b s' hlt, hm.len, hb]; omega)
        cases hr : fetchLoop left (s'.takeRaw b) with
        | ok c t =>
          rw [hr] at hi
          exact ⟨hm.toMoves.trans hi.toMoves, hi.cache.trans hm.cache, hi.cacheBits.trans hm.cacheBits,
            hi.sameConsumed.trans hm.sameConsumed⟩
        | raise e t =>
          rw [hr] at hi
          exact ⟨hm.toMoves.trans hi.toMoves, hi.cache.trans hm.cache, hi.cacheBits.trans hm.cacheBits,
            hi.sameConsumed.trans hm.sameConsumed⟩
        | stop f => trivial
      · exact hm
    simp only [fetchLoop]
    rcases memRead_cases s.bytepos.toNat s with ⟨-, hr⟩ | ⟨-, b, -, hr⟩ | ⟨-, -, hr⟩ <;> rw [hr]
    · trivial
    · exact key b s ⟨Moves.refl s, rfl, rfl, rfl⟩ rfl
    · exact key _ s.draw ⟨draw_moves s, rfl, rfl, rfl⟩ rfl

/-- FetchDelivered consumes no bit and does not touch the bit cache (R58). -/
theorem fetchDelivered_fetches (s : State) : (fetchDelivered s).Holds (Fetches s) :=
  fetchLoop_fetches _ s le_rfl

/-- FetchDelivered raises only BufferExhausted kind 0, in strict mode. -/
theorem fetchLoop_raise (left : Nat) (s t : State) (e : Raise) (h : fetchLoop left s = .raise e t) :
    e = .strictEnd ∧ s.strict = true := by
  induction left generalizing s with
  | zero =>
    rcases fetchPastEnd_cases s with ⟨hs, hp⟩ | ⟨-, hp⟩ <;> rw [fetchLoop, hp] at h
    · cases h
      exact ⟨rfl, hs⟩
    · cases h
  | succ left ih =>
    simp only [fetchLoop] at h
    rcases memRead_cases s.bytepos.toNat s with ⟨-, hr⟩ | ⟨-, b, -, hr⟩ | ⟨-, -, hr⟩ <;> rw [hr] at h
    · cases h
    · simp only [Res.ok_andThen] at h
      split at h
      · exact ih (s.takeRaw b) h
      · cases h
    · simp only [Res.ok_andThen] at h
      split at h
      · exact ih (s.draw.takeRaw _) h
      · cases h

/-! ### NextBit -/

/-- Everything NextBit can do (R61). -/
theorem nextBit_cases (s : State) :
    (s.overBudget = true ∧ nextBit s = .raise .budget s) ∨
      (s.overBudget = false ∧ s.cacheBits ≠ 0 ∧ nextBit s = .ok s.cacheBit s.countBit) ∨
      (s.overBudget = false ∧ s.cacheBits = 0 ∧
        ((∃ b t, fetchDelivered s = .ok b t ∧ nextBit s = .ok (b.getLsbD 7) (t.fillCache b).countBit) ∨
          (∃ t, fetchDelivered s = .raise .strictEnd t ∧ s.strict = true ∧ nextBit s = .raise .strictEnd t) ∨
          (∃ f, fetchDelivered s = .stop f ∧ nextBit s = .stop f))) := by
  unfold nextBit
  cases hb : s.overBudget
  · refine .inr ?_
    by_cases hc : s.cacheBits = 0
    · refine .inr ⟨rfl, hc, ?_⟩
      simp only [hc, Bool.false_eq_true, if_false, if_true]
      cases hf : fetchDelivered s with
      | ok b t => exact .inl ⟨b, t, rfl, rfl⟩
      | raise e t =>
        obtain ⟨rfl, hs⟩ := fetchLoop_raise _ s t e hf
        exact .inr (.inl ⟨t, rfl, hs, rfl⟩)
      | stop f => exact .inr (.inr ⟨f, rfl, rfl⟩)
    · exact .inl ⟨rfl, hc, by rw [if_neg (by simp), if_neg hc]⟩
  · exact .inl ⟨rfl, by simp⟩

/-- NextBit moves the cursor and nothing else. -/
theorem nextBit_moves (s : State) : (nextBit s).Holds (Moves s) := by
  have hf := fetchDelivered_fetches s
  rcases nextBit_cases s with ⟨-, h⟩ | ⟨-, -, h⟩ | ⟨-, -, ⟨b, t, hd, h⟩ | ⟨t, hd, -, h⟩ | ⟨f, -, h⟩⟩ <;> rw [h]
  · exact Moves.refl s
  · exact countBit_moves s
  · rw [hd] at hf
    exact hf.toMoves.trans ((fillCache_moves b t).trans (countBit_moves _))
  · rw [hd] at hf
    exact hf.toMoves
  · trivial

/-- The errors a bit can raise in `s`: kind 1 with the budget on, kind 0 in strict mode (R126, R133). -/
def Exhausts (s : State) (e : Raise) : Prop := (e = .budget ∧ s.budget = true) ∨ (e = .strictEnd ∧ s.strict = true)

theorem Exhausts.of_moves {s t : State} (h : Moves s t) (e : Raise) : Exhausts t e ↔ Exhausts s e := by
  simp [Exhausts, h.budget, h.strict]

theorem nextBit_raises (s : State) : (nextBit s).RaisesOnly (Exhausts s) := by
  rcases nextBit_cases s with ⟨hb, h⟩ | ⟨-, -, h⟩ | ⟨-, -, ⟨b, t, -, h⟩ | ⟨t, -, hs, h⟩ | ⟨f, -, h⟩⟩ <;> rw [h]
  · simp only [State.overBudget, Bool.and_eq_true] at hb
    exact .inl ⟨rfl, hb.1⟩
  · trivial
  · trivial
  · exact .inr ⟨rfl, hs⟩
  · trivial

/-- One bit returned is one bit counted (R29, R61). -/
theorem nextBit_consumed {s t : State} {b : Bool} (h : nextBit s = .ok b t) : t.consumed = satAdd s.consumed 1 := by
  have hf := fetchDelivered_fetches s
  rcases nextBit_cases s with ⟨-, k⟩ | ⟨-, -, k⟩ | ⟨-, -, ⟨c, u, hd, k⟩ | ⟨u, -, -, k⟩ | ⟨f, -, k⟩⟩ <;>
    rw [k] at h <;> cases h
  · rfl
  · rw [hd] at hf
    simp [hf.sameConsumed]

/-- A bit that is not returned is not counted (R61, R129). -/
theorem nextBit_raise_consumed {s t : State} {e : Raise} (h : nextBit s = .raise e t) : t.consumed = s.consumed := by
  have hf := fetchDelivered_fetches s
  rcases nextBit_cases s with ⟨-, k⟩ | ⟨-, -, k⟩ | ⟨-, -, ⟨c, u, hd, k⟩ | ⟨u, hd, -, k⟩ | ⟨f, -, k⟩⟩ <;>
    rw [k] at h <;> cases h
  · rfl
  · rw [hd] at hf
    exact hf.sameConsumed

/-! ### ReadBitsInternal -/

/-- The loop started at `v` is the loop started at 0, with `v` in front of its bits. -/
theorem readBitsLoop_eq (n v : Nat) (s : State) :
    readBitsLoop n v s = (readBits n s).andThen fun w t => .ok (v * 2 ^ n + w) t := by
  unfold readBits
  induction n generalizing v s with
  | zero => simp [readBitsLoop]
  | succ n ih =>
    simp only [readBitsLoop, Res.andThen_assoc]
    congr 1
    funext b t
    rw [ih (2 * v + b.toNat) t, ih (2 * 0 + b.toNat) t, Res.andThen_assoc]
    simp only [Res.ok_andThen]
    congr 1
    funext w u
    congr 1
    rw [Nat.pow_succ, Nat.add_mul]
    ring

@[simp] theorem readBits_zero (s : State) : readBits 0 s = .ok 0 s := rfl

/-- Reading n + 1 bits: one bit, then n, the first most significant (R54, R63). -/
theorem readBits_succ (n : Nat) (s : State) :
    readBits (n + 1) s =
      (nextBit s).andThen fun b t => (readBits n t).andThen fun w u => .ok (b.toNat * 2 ^ n + w) u := by
  rw [readBits, readBitsLoop]
  congr 1
  funext b t
  rw [readBitsLoop_eq]
  simp

/-- Reads compose: a + b bits are a bits and then b bits, the value (v << b) + w (R93). -/
theorem readBits_add (a b : Nat) (s : State) :
    readBits (a + b) s =
      (readBits a s).andThen fun v t => (readBits b t).andThen fun w u => .ok (v * 2 ^ b + w) u := by
  induction a generalizing s with
  | zero => cases h : readBits b s <;> simp [h]
  | succ a ih =>
    rw [Nat.succ_add, readBits_succ, readBits_succ, Res.andThen_assoc]
    congr 1
    funext c t
    rw [ih, Res.andThen_assoc, Res.andThen_assoc]
    simp only [Res.ok_andThen]
    congr 1
    funext v u
    rw [Res.andThen_assoc]
    simp only [Res.ok_andThen]
    congr 1
    funext w x
    congr 1
    rw [Nat.pow_add]
    ring

/-- n bits have a value below 2^n (R63). -/
theorem readBits_lt {n v : Nat} {s t : State} (h : readBits n s = .ok v t) : v < 2 ^ n := by
  induction n generalizing s v with
  | zero =>
    simp at h
    omega
  | succ n ih =>
    rw [readBits_succ] at h
    obtain ⟨b, u, -, h⟩ := Res.andThen_eq_ok.1 h
    obtain ⟨w, x, hw, h⟩ := Res.andThen_eq_ok.1 h
    cases h
    have := ih hw
    rw [Nat.pow_succ]
    cases b <;> simp <;> omega

/-- ReadBitsInternal moves the cursor and nothing else. -/
theorem readBits_moves (n : Nat) (s : State) : (readBits n s).Holds (Moves s) := by
  induction n generalizing s with
  | zero => exact Moves.refl s
  | succ n ih =>
    rw [readBits_succ]
    refine (nextBit_moves s).andThen (fun _ h => h) fun b t _ ht => ?_
    refine (ih t).andThen (fun _ h => ht.trans h) fun w u _ hu => ?_
    exact ht.trans hu

/-- Reads raise BufferExhausted only. -/
theorem readBits_raises (n : Nat) (s : State) : (readBits n s).RaisesOnly (Exhausts s) := by
  induction n generalizing s with
  | zero => trivial
  | succ n ih =>
    rw [readBits_succ]
    refine (nextBit_raises s).andThen (nextBit_moves s) fun b t _ ht => ?_
    have := ih t
    simp only [(funext fun e => propext (Exhausts.of_moves ht e) : Exhausts t = Exhausts s)] at this
    exact this.andThen (readBits_moves n t) fun _ _ _ _ => trivial

/-- n bits returned are n bits counted (R29). -/
theorem readBits_consumed {n v : Nat} {s t : State} (h : readBits n s = .ok v t) :
    t.consumed = satAdd s.consumed n := by
  induction n generalizing s v with
  | zero =>
    simp only [readBits_zero, Res.ok.injEq] at h
    rw [← h.2, satAdd_zero]
  | succ n ih =>
    rw [readBits_succ] at h
    obtain ⟨b, u, hb, h⟩ := Res.andThen_eq_ok.1 h
    obtain ⟨w, x, hw, h⟩ := Res.andThen_eq_ok.1 h
    cases h
    rw [ih hw, nextBit_consumed hb, satAdd_satAdd, Nat.add_comm]

end Sys2Proof.Machine
end

