-- ==== Sys2Proof/Laws/Commands.lean ====
section
/-! SUPPORT. What the parts of RDUE and PTL do, how a command ends, and the inversion of `exec`. -/
namespace Sys2Proof.Machine

/-- A cursor move does not change which errors its bits can raise. -/
theorem Moves.exhausts {s t : State} (h : Moves s t) : Exhausts t = Exhausts s :=
  funext fun e => propext (Exhausts.of_moves h e)

/-! ### Fields -/

theorem readField_raises (w : Nat) (s : State) : (readField w s).RaisesOnly (Exhausts s) :=
  (readBits_raises w s).andThen (readBits_moves w s) fun _ _ _ _ => trivial

theorem readField_moves (w : Nat) (s : State) : (readField w s).Holds (Moves s) :=
  (readBits_moves w s).andThen (fun _ h => h) fun _ _ _ h => h

theorem readFields_moves (w count : Nat) (s : State) : (readFields w count s).Holds (Moves s) := by
  induction count generalizing s with
  | zero => exact Moves.refl s
  | succ count ih =>
    refine (readField_moves w s).andThen (fun _ h => h) fun x t _ ht => ?_
    exact (ih t).andThen (fun _ h => ht.trans h) fun _ _ _ h => ht.trans h

theorem readFields_raises (w count : Nat) (s : State) : (readFields w count s).RaisesOnly (Exhausts s) := by
  induction count generalizing s with
  | zero => trivial
  | succ count ih =>
    refine (readField_raises w s).andThen (readField_moves w s) fun x t _ ht => ?_
    exact (ht.exhausts ▸ ih t).andThen (readFields_moves w count t) fun _ _ _ _ => trivial

/-- As many fields as asked for are read. -/
theorem readFields_length {w count : Nat} {s t : State} {l : List (BitVec w)} (h : readFields w count s = .ok l t) :
    l.length = count := by
  induction count generalizing s l with
  | zero => cases h; rfl
  | succ count ih =>
    obtain ⟨x, u, -, h⟩ := Res.andThen_eq_ok.1 h
    obtain ⟨xs, v, hx, h⟩ := Res.andThen_eq_ok.1 h
    cases h
    simp [ih hx]

/-! ### RDUE -/

/-- One zero or the terminating 1 (R100). -/
theorem leadingZeros_eq (left k : Nat) (s : State) :
    leadingZeros left k s = (nextBit s).andThen fun b t =>
      if b then .ok k t
      else match left with
        | 0 => .raise .malformedExpGolombCode t
        | left + 1 => leadingZeros left (k + 1) t := by
  cases left <;> rfl

theorem leadingZeros_moves (left k : Nat) (s : State) : (leadingZeros left k s).Holds (Moves s) := by
  induction left generalizing k s with
  | zero =>
    rw [leadingZeros_eq]
    refine (nextBit_moves s).andThen (fun _ h => h) fun b t _ h => ?_
    cases b <;> exact h
  | succ left ih =>
    rw [leadingZeros_eq]
    refine (nextBit_moves s).andThen (fun _ h => h) fun b t _ h => ?_
    cases b
    · exact (ih (k + 1) t).mono fun _ => h.trans
    · exact h

/-- A zero run that ends counts at most the zeros allowed, each one bit, and the terminating 1 (R100, R104). -/
theorem leadingZeros_ok {left k r : Nat} {s t : State} (h : leadingZeros left k s = .ok r t) :
    k ≤ r ∧ r ≤ k + left ∧ t.consumed = satAdd s.consumed (r - k + 1) := by
  induction left generalizing k s with
  | zero =>
    rw [leadingZeros_eq] at h
    obtain ⟨b, u, hb, h⟩ := Res.andThen_eq_ok.1 h
    cases b
    · simp at h
    · simp only [if_true, Res.ok.injEq] at h
      obtain ⟨rfl, rfl⟩ := h
      simp [nextBit_consumed hb]
  | succ left ih =>
    rw [leadingZeros_eq] at h
    obtain ⟨b, u, hb, h⟩ := Res.andThen_eq_ok.1 h
    cases b
    · obtain ⟨h1, h2, h3⟩ := ih h
      refine ⟨by omega, by omega, ?_⟩
      rw [h3, nextBit_consumed hb, satAdd_satAdd]
      congr 1
      omega
    · simp only [if_true, Res.ok.injEq] at h
      obtain ⟨rfl, rfl⟩ := h
      simp [nextBit_consumed hb]

/-- Besides BufferExhausted a zero run raises only MalformedExpGolombCode (R100). -/
theorem leadingZeros_raises (left k : Nat) (s : State) :
    (leadingZeros left k s).RaisesOnly fun e => Exhausts s e ∨ e = .malformedExpGolombCode := by
  have first : (nextBit s).RaisesOnly fun e => Exhausts s e ∨ e = .malformedExpGolombCode :=
    (nextBit_raises s).mono fun _ => .inl
  induction left generalizing k s with
  | zero =>
    rw [leadingZeros_eq]
    refine first.andThen (nextBit_moves s) fun b t _ _ => ?_
    cases b
    · exact .inr rfl
    · trivial
  | succ left ih =>
    rw [leadingZeros_eq]
    refine first.andThen (nextBit_moves s) fun b t _ ht => ?_
    cases b
    · exact ht.exhausts ▸ ih (k + 1) t ((nextBit_raises t).mono fun _ => .inl)
    · trivial

theorem readUe_moves (s : State) : (readUe s).Holds (Moves s) := by
  refine (leadingZeros_moves kmax 0 s).andThen (fun _ h => h) fun k t _ ht => ?_
  exact (readBits_moves k t).andThen (fun _ h => ht.trans h) fun _ _ _ h => ht.trans h

theorem readUe_raises (s : State) : (readUe s).RaisesOnly fun e => Exhausts s e ∨ e = .malformedExpGolombCode := by
  refine (leadingZeros_raises kmax 0 s).andThen (leadingZeros_moves kmax 0 s) fun k t _ ht => ?_
  have h : (readBits k t).RaisesOnly fun e => Exhausts s e ∨ e = .malformedExpGolombCode :=
    (ht.exhausts ▸ readBits_raises k t).mono fun _ => .inl
  exact h.andThen (readBits_moves k t) fun _ _ _ _ => trivial

/-! ### PTL -/

theorem readSubLayerFlags_moves (m : Nat) (s : State) : (readSubLayerFlags m s).Holds (Moves s) := by
  induction m generalizing s with
  | zero => exact Moves.refl s
  | succ m ih =>
    refine (readField_moves 1 s).andThen (fun _ h => h) fun pp t _ ht => ?_
    refine (readField_moves 1 t).andThen (fun _ h => ht.trans h) fun lp u _ hu => ?_
    exact (ih u).andThen (fun _ h => (ht.trans hu).trans h) fun _ _ _ h => (ht.trans hu).trans h

theorem readSubLayerFlags_raises (m : Nat) (s : State) : (readSubLayerFlags m s).RaisesOnly (Exhausts s) := by
  induction m generalizing s with
  | zero => trivial
  | succ m ih =>
    refine (readField_raises 1 s).andThen (readField_moves 1 s) fun pp t _ ht => ?_
    refine (ht.exhausts ▸ readField_raises 1 t).andThen (readField_moves 1 t) fun lp u _ hu => ?_
    exact ((ht.trans hu).exhausts ▸ ih u).andThen (readSubLayerFlags_moves m u) fun _ _ _ _ => trivial

/-- One pair of flags per sub-layer (R112). -/
theorem readSubLayerFlags_length {m : Nat} {s t : State} {l : List (BitVec 1 × BitVec 1)}
    (h : readSubLayerFlags m s = .ok l t) : l.length = m := by
  induction m generalizing s l with
  | zero => cases h; rfl
  | succ m ih =>
    obtain ⟨pp, u, -, h⟩ := Res.andThen_eq_ok.1 h
    obtain ⟨lp, v, -, h⟩ := Res.andThen_eq_ok.1 h
    obtain ⟨xs, w, hx, h⟩ := Res.andThen_eq_ok.1 h
    cases h
    simp [ih hx]

theorem skipAlignment_moves (m : Nat) (s : State) : (skipAlignment m s).Holds (Moves s) := by
  unfold skipAlignment
  split
  · exact readBits_moves _ s
  · exact Moves.refl s

theorem skipAlignment_raises (m : Nat) (s : State) : (skipAlignment m s).RaisesOnly (Exhausts s) := by
  unfold skipAlignment
  split
  · exact readBits_raises _ s
  · trivial

theorem ite_readBits_raises (p : Prop) [Decidable p] (n : Nat) (s : State) :
    (if p then readBits n s else .ok 0 s).RaisesOnly (Exhausts s) := by
  split
  · exact readBits_raises n s
  · trivial

/-- A skip that a flag switches on moves the cursor and nothing else. -/
theorem ite_readBits_moves (p : Prop) [Decidable p] (n : Nat) (s : State) :
    (if p then readBits n s else .ok 0 s).Holds (Moves s) := by
  split
  · exact readBits_moves n s
  · exact Moves.refl s

theorem skipSubLayers_moves (l : List (BitVec 1 × BitVec 1)) (s : State) : (skipSubLayers l s).Holds (Moves s) := by
  induction l generalizing s with
  | nil => exact Moves.refl s
  | cons p rest ih =>
    obtain ⟨pp, lp⟩ := p
    refine (ite_readBits_moves (pp = 1) 88 s).andThen (fun _ h => h) fun _ t _ ht => ?_
    refine (ite_readBits_moves (lp = 1) 8 t).andThen (fun _ h => ht.trans h) fun _ u _ hu => ?_
    exact (ih u).mono fun _ => (ht.trans hu).trans

theorem skipSubLayers_raises (l : List (BitVec 1 × BitVec 1)) (s : State) :
    (skipSubLayers l s).RaisesOnly (Exhausts s) := by
  induction l generalizing s with
  | nil => trivial
  | cons p rest ih =>
    obtain ⟨pp, lp⟩ := p
    refine (ite_readBits_raises (pp = 1) 88 s).andThen (ite_readBits_moves (pp = 1) 88 s) fun _ t _ ht => ?_
    refine (ht.exhausts ▸ ite_readBits_raises (lp = 1) 8 t).andThen (ite_readBits_moves (lp = 1) 8 t) fun _ u _ hu => ?_
    exact (ht.trans hu).exhausts ▸ ih u

theorem parsePtl_moves (m : Nat) (s : State) : (parsePtl m s).Holds (Moves s) := by
  refine (readField_moves 2 s).andThen (fun _ h => h) fun _ s1 _ h1 => ?_
  refine (readField_moves 1 s1).andThen (fun _ h => h1.trans h) fun _ s2 _ h => ?_
  have h2 := h1.trans h
  refine (readField_moves 5 s2).andThen (fun _ h => h2.trans h) fun _ s3 _ h => ?_
  have h3 := h2.trans h
  refine (readFields_moves 8 4 s3).andThen (fun _ h => h3.trans h) fun _ s4 _ h => ?_
  have h4 := h3.trans h
  refine (readFields_moves 8 6 s4).andThen (fun _ h => h4.trans h) fun _ s5 _ h => ?_
  have h5 := h4.trans h
  refine (readField_moves 8 s5).andThen (fun _ h => h5.trans h) fun _ s6 _ h => ?_
  have h6 := h5.trans h
  refine (readSubLayerFlags_moves m s6).andThen (fun _ h => h6.trans h) fun _ s7 _ h => ?_
  have h7 := h6.trans h
  refine (skipAlignment_moves m s7).andThen (fun _ h => h7.trans h) fun _ s8 _ h => ?_
  have h8 := h7.trans h
  exact (skipSubLayers_moves _ s8).andThen (fun _ h => h8.trans h) fun _ _ _ h => h8.trans h

/-- PTL raises BufferExhausted only (R107). -/
theorem parsePtl_raises (m : Nat) (s : State) : (parsePtl m s).RaisesOnly (Exhausts s) := by
  refine (readField_raises 2 s).andThen (readField_moves 2 s) fun _ s1 _ h1 => ?_
  refine (h1.exhausts ▸ readField_raises 1 s1).andThen (readField_moves 1 s1) fun _ s2 _ h => ?_
  have h2 := h1.trans h
  refine (h2.exhausts ▸ readField_raises 5 s2).andThen (readField_moves 5 s2) fun _ s3 _ h => ?_
  have h3 := h2.trans h
  refine (h3.exhausts ▸ readFields_raises 8 4 s3).andThen (readFields_moves 8 4 s3) fun _ s4 _ h => ?_
  have h4 := h3.trans h
  refine (h4.exhausts ▸ readFields_raises 8 6 s4).andThen (readFields_moves 8 6 s4) fun _ s5 _ h => ?_
  have h5 := h4.trans h
  refine (h5.exhausts ▸ readField_raises 8 s5).andThen (readField_moves 8 s5) fun _ s6 _ h => ?_
  have h6 := h5.trans h
  refine (h6.exhausts ▸ readSubLayerFlags_raises m s6).andThen (readSubLayerFlags_moves m s6) fun l s7 _ h => ?_
  have h7 := h6.trans h
  refine (h7.exhausts ▸ skipAlignment_raises m s7).andThen (skipAlignment_moves m s7) fun _ s8 _ h => ?_
  have h8 := h7.trans h
  exact (h8.exhausts ▸ skipSubLayers_raises l s8).andThen (skipSubLayers_moves l s8) fun _ _ _ _ => trivial

/-! ### How a command ends -/

/-- The three ways a command ends (R76, R128). -/
theorem finish_cases {α : Type} (op : BitVec 4) (commit : α → State → State) (r : Res α) :
    (∃ a t, r = .ok a t ∧ finish op commit r = .next (commit a t).complete) ∨
      (∃ e t, r = .raise e t ∧ finish op commit r = .next (t.faultEntry e op)) ∨
      (∃ f, r = .stop f ∧ finish op commit r = .fault f) := by
  cases r with
  | ok a t => exact .inl ⟨a, t, rfl, rfl⟩
  | raise e t => exact .inr (.inl ⟨e, t, rfl, rfl⟩)
  | stop f => exact .inr (.inr ⟨f, rfl, rfl⟩)

/-- What a command that completes writes at its end (R92, R95, R100, R107). -/
inductive Commits : Instr → State → State → Prop where
  | rdbits (n : BitVec 6) (v : Nat) (u : State) : Commits (.rdbits n) u (u.setResult v)
  | skbits (n : BitVec 6) (u : State) : Commits (.skbits n) u u
  | rdue (v : Nat) (u : State) : Commits .rdue u (u.setResult v)
  | ptl (m : BitVec 3) (f : PtlFields) (u : State) : Commits (.ptl m) u (u.commitPtl m f)

/-- The inversion of `exec`: INIT sets the initial parse state; every other command that answers a next state has moved
the cursor and then made its final writes, or taken its fault, which it can raise (R125, R133). -/
theorem exec_cases {i : Instr} {s t : State} (h : exec i s = .next t) :
    (i = .init ∧ t = s.initParse.complete) ∨
      (i ≠ .init ∧ ∃ u, Moves s u ∧
        ((∃ w, Commits i u w ∧ t = w.complete) ∨
          ∃ e, (Exhausts s e ∨ (e = .malformedExpGolombCode ∧ i = .rdue)) ∧ t = u.faultEntry e i.op)) := by
  have legal : ∀ {α : Type} {r : Res α} {e : Raise} {u : State}, r = .raise e u → r.Holds (Moves s) → Moves s u := by
    intro α r e u hr hm
    rw [hr] at hm
    exact hm
  cases i with
  | init =>
    cases h
    exact .inl ⟨rfl, rfl⟩
  | rdbits n =>
    refine .inr ⟨by simp, ?_⟩
    have hm := readBits_moves (countOperand n) s
    rcases finish_cases (Instr.rdbits n).op State.setResult (readBits (countOperand n) s) with
      ⟨v, u, hr, hf⟩ | ⟨e, u, hr, hf⟩ | ⟨f, -, hf⟩ <;> rw [exec, execRdbits, hf] at h <;> cases h
    · rw [hr] at hm
      exact ⟨u, hm, .inl ⟨_, .rdbits n v u, rfl⟩⟩
    · exact ⟨u, legal hr hm, .inr ⟨e, (.inl ((readBits_raises _ s).of_eq hr)), rfl⟩⟩
  | skbits n =>
    refine .inr ⟨by simp, ?_⟩
    have hm := readBits_moves (countOperand n) s
    rcases finish_cases (Instr.skbits n).op (fun _ t => t) (readBits (countOperand n) s) with
      ⟨v, u, hr, hf⟩ | ⟨e, u, hr, hf⟩ | ⟨f, -, hf⟩ <;> rw [exec, execSkbits, hf] at h <;> cases h
    · rw [hr] at hm
      exact ⟨u, hm, .inl ⟨_, .skbits n u, rfl⟩⟩
    · exact ⟨u, legal hr hm, .inr ⟨e, (.inl ((readBits_raises _ s).of_eq hr)), rfl⟩⟩
  | rdue =>
    refine .inr ⟨by simp, ?_⟩
    have hm := readUe_moves s
    rcases finish_cases Instr.rdue.op State.setResult (readUe s) with
      ⟨v, u, hr, hf⟩ | ⟨e, u, hr, hf⟩ | ⟨f, -, hf⟩ <;> rw [exec, execRdue, hf] at h <;> cases h
    · rw [hr] at hm
      exact ⟨u, hm, .inl ⟨_, .rdue v u, rfl⟩⟩
    · exact ⟨u, legal hr hm, .inr ⟨e, (((readUe_raises s).of_eq hr).imp id fun h => ⟨h, rfl⟩), rfl⟩⟩
  | ptl m =>
    refine .inr ⟨by simp, ?_⟩
    have hm := parsePtl_moves (subLayerOperand m) s
    rcases finish_cases (Instr.ptl m).op (State.commitPtl m) (parsePtl (subLayerOperand m) s) with
      ⟨v, u, hr, hf⟩ | ⟨e, u, hr, hf⟩ | ⟨f, -, hf⟩ <;> rw [exec, execPtl, hf] at h <;> cases h
    · rw [hr] at hm
      exact ⟨u, hm, .inl ⟨_, .ptl m v u, rfl⟩⟩
    · exact ⟨u, legal hr hm, .inr ⟨e, (.inl ((parsePtl_raises _ s).of_eq hr)), rfl⟩⟩

end Sys2Proof.Machine
end

