-- ==== Sys2Proof/Laws/Bus.lean ====
section
/-! SUPPORT. What the host's accesses can do, and the inversion of `step`. -/
namespace Sys2Proof.Machine

/-- A byte observed by the host leaves all but the draw counter. -/
theorem hostByte_keeps (a : Nat) (s : State) : ∃ d, s.draws ≤ d ∧ (hostByte a s).2 = { s with draws := d } := by
  unfold hostByte
  split
  · rcases observeByte_cases a s with ⟨b, -, h⟩ | ⟨-, h⟩ <;> rw [h]
    · exact ⟨s.draws, le_rfl, rfl⟩
    · exact ⟨s.draws + 1, Nat.le_succ _, rfl⟩
  · exact ⟨s.draws, le_rfl, rfl⟩

/-- Reading an IBUF word leaves all but the draw counter. -/
theorem ibufWord_keeps (j : Nat) (s : State) : ∃ d, s.draws ≤ d ∧ (ibufWord j s).2 = { s with draws := d } := by
  unfold ibufWord
  obtain ⟨d0, l0, h0⟩ := hostByte_keeps (4 * j) s
  obtain ⟨d1, l1, h1⟩ := hostByte_keeps (4 * j + 1) (hostByte (4 * j) s).2
  obtain ⟨d2, l2, h2⟩ := hostByte_keeps (4 * j + 2) (hostByte (4 * j + 1) (hostByte (4 * j) s).2).2
  obtain ⟨d3, l3, h3⟩ :=
    hostByte_keeps (4 * j + 3) (hostByte (4 * j + 2) (hostByte (4 * j + 1) (hostByte (4 * j) s).2).2).2
  refine ⟨d3, ?_, ?_⟩
  · rw [h2, h1, h0] at l3
    rw [h1, h0] at l2
    rw [h0] at l1
    exact le_trans l0 (le_trans l1 (le_trans l2 l3))
  · refine Eq.trans h3 ?_
    rw [h2, h1, h0]

/-- A read, busy or idle, leaves all but `rdata` and the draw counter (R65). -/
theorem hostRead_keeps (t : Target) (s : State) :
    ∃ v d, s.draws ≤ d ∧ hostRead t s = { s with rdata := v, draws := d } := by
  have idle : ∃ d, s.draws ≤ d ∧ (readTarget t s).2 = { s with draws := d } := by
    cases t with
    | ibuf j => exact ibufWord_keeps j s
    | _ => exact ⟨s.draws, le_rfl, rfl⟩
  have busy : ∃ d, s.draws ≤ d ∧ (readBusy t s).2 = { s with draws := d } := by
    cases t with
    | id => exact ⟨s.draws, le_rfl, rfl⟩
    | reserved => exact ⟨s.draws, le_rfl, rfl⟩
    | _ => exact ⟨s.draws + 1, Nat.le_succ _, rfl⟩
  unfold hostRead
  split
  · rename_i v s' h
    cases hb : s.busy <;> simp only [hb, Bool.false_eq_true, if_false, if_true] at h
    · obtain ⟨d, hd, hk⟩ := idle
      rw [h] at hk
      exact ⟨v, d, hd, by rw [show s' = _ from hk]; rfl⟩
    · obtain ⟨d, hd, hk⟩ := busy
      rw [h] at hk
      exact ⟨v, d, hd, by rw [show s' = _ from hk]; rfl⟩

/-- An idle read of anything but an IBUF word draws nothing. -/
theorem hostRead_idle_register (t : Target) (s : State) (h : s.busy = false) (ht : ∀ j, t ≠ .ibuf j) :
    hostRead t s = { s with rdata := (readTarget t s).1 } := by
  cases t <;> first
    | exact absurd rfl (ht _)
    | simp [hostRead, h, readTarget, State.returnWord]

/-- What a host write can do: nothing, OVR, CTRL, LEN, an accepted command, or written IBUF bytes (R14, R131, R151). -/
theorem hostWrite_cases (t : Target) (v : Word) (s : State) :
    hostWrite t v s = s ∨
      (s.rst = false ∧ s.busy = true ∧ t = .cmd ∧ hostWrite t v s = s.setOvr) ∨
      (s.rst = false ∧ s.busy = false ∧ t = .ctrl ∧ hostWrite t v s = s.writeCtrl v) ∨
      (s.rst = false ∧ s.busy = false ∧ t = .len ∧ hostWrite t v s = s.writeLen v) ∨
      (s.rst = false ∧ s.busy = false ∧ t = .cmd ∧ (s.halted = false ∨ v = 0x00000001) ∧
        hostWrite t v s = s.accept v) ∨
      (s.rst = false ∧ s.busy = false ∧ ∃ j, t = .ibuf j ∧ hostWrite t v s = writeIbufWord j v s) := by
  cases hr : s.rst
  · cases hb : s.busy
    · cases t <;> simp [hostWrite, hr, hb, writeTarget]
      simp only [issueCommand]
      cases hh : s.halted
      · simp
      · by_cases hv : v = 1#32 <;> simp [hv]
    · cases t <;> simp [hostWrite, hr, hb, writeBusy]
  · exact .inl (by simp [hostWrite, hr])

/-- A word written to IBUF changes IBUF only, and only its own bytes (R52). -/
theorem writeIbufWord_keeps (j : Nat) (v : Word) (s : State) :
    writeIbufWord j v s = { s with mem := (writeIbufWord j v s).mem } := by
  unfold writeIbufWord writeByte
  split_ifs <;> rfl

/-- One byte written: its index if inside IBUF, nothing else (R52). -/
theorem writeByte_read (a : Nat) (v : Byte) (s : State) (i : Nat) :
    (writeByte a v s).mem.read i = if i = a ∧ a < s.ibufBytes then some v else s.mem.read i := by
  unfold writeByte
  split
  · rename_i h
    simp [Memory.read_write, h]
  · rename_i h
    simp [h]

theorem writeByte_wf (a : Nat) (v : Byte) (s : State) (h : s.mem.wf = true) : (writeByte a v s).mem.wf = true := by
  unfold writeByte
  split
  · exact Memory.wf_write _ _ _ h
  · exact h

/-- A word written keeps the canonical form of IBUF's listing. -/
theorem writeIbufWord_wf (j : Nat) (v : Word) (s : State) (h : s.mem.wf = true) : (writeIbufWord j v s).mem.wf = true :=
  writeByte_wf _ _ _ (writeByte_wf _ _ _ (writeByte_wf _ _ _ (writeByte_wf _ _ _ h)))

/-- An access is refused, or done on the target its offset names (R51). -/
theorem hostAccess_cases (a : Access) (s : State) :
    (∃ r, hostAccess a s = .refused r) ∨
      (∃ o, a = .read 32 o ∧ hostAccess a s = .next (hostRead (targetOf s.ibufBytes o) s)) ∨
      (∃ o v, a = .write 32 o v ∧ hostAccess a s = .next (hostWrite (targetOf s.ibufBytes o) v s)) := by
  cases a with
  | read width o =>
    by_cases hw : width = 32
    · subst hw
      by_cases ho : o.extractLsb' 0 2 = 0
      · exact .inr (.inl ⟨o, rfl, by simp only [hostAccess, ho, ne_eq, not_true_eq_false, if_false]⟩)
      · exact .inl ⟨.unalignedAccess o, by simp only [hostAccess, ho, ne_eq, not_true_eq_false, if_false, not_false_eq_true, if_true]⟩
    · exact .inl ⟨.accessWidth width, by simp [hostAccess, hw]⟩
  | write width o v =>
    by_cases hw : width = 32
    · subst hw
      by_cases ho : o.extractLsb' 0 2 = 0
      · exact .inr (.inr ⟨o, v, rfl, by simp only [hostAccess, ho, ne_eq, not_true_eq_false, if_false]⟩)
      · exact .inl ⟨.unalignedAccess o, by simp only [hostAccess, ho, ne_eq, not_true_eq_false, if_false, not_false_eq_true, if_true]⟩
    · exact .inl ⟨.accessWidth width, by simp [hostAccess, hw]⟩

/-- The engine's turn: idle, an illegal word's fault, or the decoded command (R76, R127). -/
theorem engineTurn_cases (s : State) :
    (s.running = none ∧ engineTurn s = .next s) ∨
      (∃ w e, s.running = some w ∧ decode w = .error e ∧
        engineTurn s = .next (s.faultEntry .illegalCommand (opField w))) ∨
      (∃ w i, s.running = some w ∧ decode w = .ok i ∧ engineTurn s = exec i s) := by
  unfold engineTurn runWord
  cases hr : s.running with
  | none => exact .inl ⟨rfl, rfl⟩
  | some w =>
    cases hd : decode w with
    | error e => exact .inr (.inl ⟨w, e, rfl, hd, by simp [hd]⟩)
    | ok i => exact .inr (.inr ⟨w, i, rfl, hd, by simp [hd]⟩)

/-- The inversion of `step`: the engine's turn, a bus access, or a change of `rst` (R74). -/
theorem step_cases (s : State) :
    (s.inputs = [] ∧ step s = engineTurn s) ∨
      (∃ rest, s.inputs = .engine :: rest ∧ step s = engineTurn (s.setInputs rest)) ∨
      (∃ a rest, s.inputs = .access a :: rest ∧ step s = hostAccess a (s.setInputs rest)) ∨
      (∃ level rest, s.inputs = .rst level :: rest ∧ step s = .next (resetInput level (s.setInputs rest))) := by
  unfold step
  cases h : s.inputs with
  | nil => exact .inl ⟨rfl, rfl⟩
  | cons i rest =>
    cases i with
    | engine => exact .inr (.inl ⟨rest, rfl, rfl⟩)
    | access a => exact .inr (.inr (.inl ⟨a, rest, rfl, rfl⟩))
    | rst level => exact .inr (.inr (.inr ⟨level, rest, rfl, rfl⟩))

/-- No command is refused. -/
theorem exec_not_refused (i : Instr) (s : State) (r : Refusal) : exec i s ≠ .refused r := by
  cases i with
  | init => simp [exec, execInit]
  | rdbits n => cases h : readBits (countOperand n) s <;> simp [exec, execRdbits, finish, h]
  | skbits n => cases h : readBits (countOperand n) s <;> simp [exec, execSkbits, finish, h]
  | rdue => cases h : readUe s <;> simp [exec, execRdue, finish, h]
  | ptl m => cases h : parsePtl (subLayerOperand m) s <;> simp [exec, execPtl, finish, h]

end Sys2Proof.Machine
end

