-- ==== Sys2Proof/Laws/Formatter.lean ====
section
/-! SUPPORT. Small facts of the codec-id formatter, the CID buffer and the register map. -/
namespace Sys2Proof.Machine

/-- A number has at least one digit (R119). -/
theorem digits_ne_nil (base fuel v : Nat) : digits base (fuel + 1) v ≠ [] := by
  unfold digits
  split <;> simp

theorem dec_ne_nil (v : Nat) : dec v ≠ [] := digits_ne_nil _ _ _

theorem hex_ne_nil (v : Nat) : hex v ≠ [] := digits_ne_nil _ _ _

/-- The number of digits is bounded by the power of the base the number lies below (R119). -/
theorem digits_length_le (base fuel k v : Nat) (h : v < base ^ (k + 1)) : (digits base fuel v).length ≤ k + 1 := by
  induction k generalizing fuel v with
  | zero =>
    cases fuel with
    | zero => simp [digits]
    | succ fuel => simp [digits, (by simpa using h : v < base)]
  | succ k ih =>
    cases fuel with
    | zero => simp [digits]
    | succ fuel =>
      unfold digits
      split
      · simp
      · have hd : v / base < base ^ (k + 1) := by
          apply Nat.div_lt_of_lt_mul
          rwa [Nat.mul_comm, ← Nat.pow_succ]
        simpa using ih fuel (v / base) hd

/-- The CID buffer has 40 bytes (R38). -/
@[simp] theorem cidBytes_length (name : List Char) : (cidBytes name).length = 40 := by simp [cidBytes]

/-- Byte j of the CID buffer is the j-th character, 0x00 beyond the name (R38, R107). -/
theorem cidBytes_getD (name : List Char) (j : Nat) (h : j < 40) :
    (cidBytes name).getD j 0 = (name.map ascii).getD j 0x00 := by
  simp [cidBytes, List.getD, h]

/-- An IBUF word inside IBUF is named by its offset (R39). -/
theorem targetOf_ibuf (ibufBytes j : Nat) (hi : ibufBytes ≤ 65535) (hj : 4 * j < ibufBytes) :
    targetOf ibufBytes (BitVec.ofNat 17 (0x10000 + 4 * j)) = .ibuf j := by
  have h : (BitVec.ofNat 17 (0x10000 + 4 * j)).toNat = 0x10000 + 4 * j := by
    simp only [BitVec.toNat_ofNat]
    omega
  rw [targetOf, h, targetAt]
  iterate 19 rw [if_neg (by omega)]
  rw [if_pos (by omega)]
  congr 1
  omega

end Sys2Proof.Machine
end

