-- ==== Sys2Proof/Laws/PerInstr.lean ====
section
/-! SUPPORT. A law of every command as text: its word has OP, ARG and Z where R75 puts them. -/
namespace Sys2Proof.Laws

/-- The three fields of a word put together are read back (R75). -/
theorem fields_of_word (arg : BitVec 6) (op : BitVec 4) :
    opField (0#22 ++ arg ++ op) = op ∧ argField (0#22 ++ arg ++ op) = arg ∧ zField (0#22 ++ arg ++ op) = 0 := by
  refine ⟨?_, ?_, ?_⟩ <;> apply BitVec.eq_of_getLsbD_eq <;> intro i hi <;>
    simp only [opField, argField, zField, BitVec.getLsbD_extractLsb', BitVec.getLsbD_append]
  · simp [hi]
  · have h1 : ¬4 + i < 4 := by omega
    simp [hi, h1]
  · have h1 : ¬10 + i < 4 := by omega
    have h2 : ¬10 + i - 4 < 6 := by omega
    simp [h1, h2]

namespace EncodedFields

/-- The word of `i` holds its OP, its ARG and Z = 0 (R75, R79-R82). -/
def Statement (i : Instr) : Prop :=
  opField (encode i) = i.op ∧ argField (encode i) = i.arg ∧ zField (encode i) = 0

theorem init : Statement .init := fields_of_word _ _
theorem rdbits (n : BitVec 6) : Statement (.rdbits n) := fields_of_word _ _
theorem skbits (n : BitVec 6) : Statement (.skbits n) := fields_of_word _ _
theorem rdue : Statement .rdue := fields_of_word _ _
theorem ptl (m : BitVec 3) : Statement (.ptl m) := fields_of_word _ _

end EncodedFields

end Sys2Proof.Laws
end

