-- ==== Sys2Proof/Laws/Stream.lean ====
section
/-! SUPPORT. The small lemmas of the logical stream and of the cursor's position in it (Safety.lean). -/
namespace Sys2Proof.Machine

/-! ### Delivered bytes -/

@[simp] theorem unescape_nil (h2 h1 : Option Byte) : unescape h2 h1 [] = [] := by unfold unescape; rfl

/-- An emulation-prevention byte is left out (R56). -/
theorem unescape_cons_dropped {b : Byte} (rest : List Byte) (hb : b = 0x03) :
    unescape (some 0x00) (some 0x00) (b :: rest) = unescape (some 0x00) (some b) rest := by simp [unescape, hb]

/-- Every other byte is delivered (R56). -/
theorem unescape_cons_kept {h2 h1 : Option Byte} {b : Byte} (rest : List Byte)
    (hk : ¬(b = 0x03 ∧ h1 = some 0x00 ∧ h2 = some 0x00)) :
    unescape h2 h1 (b :: rest) = b :: unescape h1 (some b) rest := by rw [unescape, if_neg hk]

theorem unescape_length_le (raw : List Byte) :
    ∀ h2 h1 : Option Byte, (unescape h2 h1 raw).length ≤ raw.length := by
  induction raw with
  | nil => simp
  | cons b rest ih =>
    intro h2 h1
    unfold unescape
    split
    · exact Nat.le_succ_of_le (ih _ _)
    · simpa using ih _ _

/-- One raw byte more delivers no byte fewer. -/
theorem unescape_take_length_mono (raw : List Byte) :
    ∀ (h2 h1 : Option Byte) (r : Nat),
      (unescape h2 h1 (raw.take r)).length ≤ (unescape h2 h1 (raw.take (r + 1))).length := by
  induction raw with
  | nil => simp
  | cons b rest ih =>
    intro h2 h1 r
    cases r with
    | zero => simp
    | succ r =>
      simp only [List.take_succ_cons]
      unfold unescape
      split
      · exact ih _ _ r
      · simpa using ih _ _ r

@[simp] theorem rawAhead_length (s : State) : s.rawAhead.length = s.len.toNat - s.bytepos.toNat := by
  simp [State.rawAhead]

@[simp] theorem delivered_zero (s : State) : s.delivered 0 = [] := by simp [State.delivered]

theorem delivered_length_le (s : State) (r : Nat) : (s.delivered r).length ≤ r :=
  (unescape_length_le _ _ _).trans (by simp)

theorem delivered_length_mono (s : State) {r r' : Nat} (h : r ≤ r') :
    (s.delivered r).length ≤ (s.delivered r').length := by
  induction h with
  | refl => exact Nat.le_refl _
  | step _ ih => exact ih.trans (unescape_take_length_mono _ _ _ _)

/-! ### Where n bits leave the cursor -/

/-- The bits CACHE holds need no further byte (R61). -/
theorem bytesFor_eq_zero {s : State} {n : Nat} (h : n ≤ s.cacheBits.toNat) : s.bytesFor n = 0 := by
  simp [State.bytesFor, h]

/-- The bits CACHE holds need no raw byte, and are the only ones that need none while raw bytes are left (R61). -/
theorem requires_none {s : State} {n : Nat} (h : n ≤ s.cacheBits.toNat) : s.Requires n 0 := by
  simp [State.Requires, bytesFor_eq_zero h]

/-- At most one number of raw bytes is what n bits require. -/
theorem requires_unique {s : State} {n r r' : Nat} (h : s.Requires n r) (h' : s.Requires n r') : r = r' := by
  rcases Nat.lt_trichotomy r r' with hlt | heq | hgt
  · rcases h.2.1 with hd | hr
    · have := h'.2.2 r hlt
      omega
    · have := h'.1
      omega
  · exact heq
  · rcases h'.2.1 with hd | hr
    · have := h.2.2 r' hgt
      omega
    · have := h.1
      omega

theorem historyAfter_none (s : State) : s.HistoryAfter 0 s := ⟨fun _ => ⟨rfl, rfl, rfl⟩, fun h => absurd h (by omega)⟩

theorem cursorAfter_none (s : State) : s.CursorAfter 0 0 s :=
  ⟨rfl, historyAfter_none s, by simp [bytesFor_eq_zero (Nat.zero_le _)], by simp [bytesFor_eq_zero (Nat.zero_le _)]⟩

/-- A fault at a bit whose fetch has dropped nothing leaves the cursor where a move leaves it (R129). -/
theorem cursorAtFault_of_budget {s t : State} {j r : Nat} (hr : s.Requires j r) (hc : s.CursorAfter j r t)
    (hk : s.failKind j = true) : s.CursorAtFault j t :=
  ⟨r, r, hr, hc, .inl rfl, fun h => by rw [hk] at h; cases h⟩

/-! ### Unwritten bytes of an IBUF word -/

@[simp] theorem unwrittenBefore_zero (s : State) (j : Nat) : s.unwrittenBefore j 0 = 0 := rfl

theorem unwrittenBefore_succ (s : State) (j k : Nat) :
    s.unwrittenBefore j (k + 1) =
      s.unwrittenBefore j k + if 4 * j + k < s.ibufBytes ∧ s.mem.read (4 * j + k) = none then 1 else 0 := by
  simp only [State.unwrittenBefore, List.range_succ, List.filter_append, List.length_append]
  by_cases h : 4 * j + k < s.ibufBytes ∧ s.mem.read (4 * j + k) = none
  · simp [h]
  · rw [if_neg h]
    congr 1
    by_cases h1 : 4 * j + k < s.ibufBytes
    · simpa [h1] using fun h2 => h ⟨h1, h2⟩
    · simp [h1]

end Sys2Proof.Machine
end

