-- ==== Sys2Proof/Tests/Slice0.lean ====
section
/-! SUPPORT. The model's own tests: ill-formed terms, words written out from the spec's encoding, vectors of
spec/95_test_vectors.md (each names its vector), and a witness for the hypotheses of each statement. -/
namespace Sys2Proof.Tests
set_option Elab.async false
open Sys2Proof Sys2Proof.Machine

/-! ### Helpers -/

/-- The block with these bytes written to IBUF[0..] and LEN their count, IBUF_BYTES 4096, in the initial parse state
(the conventions of spec/95_test_vectors.md). -/
def buf (bytes : List Byte) : State :=
  { State.reset with
    ibufBytes := 4096, mem := (List.range bytes.length).zip bytes, len := BitVec.ofNat 16 bytes.length }

/-- The same in strict mode. -/
def strictBuf (bytes : List Byte) : State := { buf bytes with strict := true }

/-- The same with the budget on. -/
def budgetBuf (bytes : List Byte) : State := { buf bytes with budget := true }

/-- The outcome is a next state of which `p` holds. -/
def chk (o : Host.Outcome State Fault Refusal) (p : State → Bool) : Bool :=
  match o with
  | .next t => p t
  | .fault _ => false
  | .refused _ => false

theorem of_chk {o : Host.Outcome State Fault Refusal} {p : State → Bool} (h : chk o p = true) :
    ∃ t, o = .next t ∧ p t = true := by
  cases o with
  | next t => exact ⟨t, rfl, h⟩
  | fault f => cases h
  | refused r => cases h

/-- The command word `w` accepted and run, in one step. -/
def runs (w : Nat) (s : State) (p : State → Bool) : Bool := chk (step (s.withFetchWord 32 w)) p

/-- One host access made. -/
def does (i : Input) (s : State) (p : State → Bool) : Bool := chk (step { s with inputs := [i] }) p

/-! ### WellFormed -/

theorem test_wellFormed_refuses_rdbits_0 : (Instr.rdbits 0).wellFormed = false := by decide
theorem test_wellFormed_refuses_rdbits_33 : (Instr.rdbits 33).wellFormed = false := by decide
theorem test_wellFormed_refuses_skbits_0 : (Instr.skbits 0).wellFormed = false := by decide
theorem test_wellFormed_refuses_skbits_63 : (Instr.skbits 63).wellFormed = false := by decide

/-! ### Decoding: words written out bit by bit, Z then ARG then OP (R75, R79-R82) -/

theorem test_decode_init : decode 0b0000000000000000000000_000000_0001 = .ok .init := rfl
theorem test_decode_rdbits : decode 0b0000000000000000000000_100000_0010 = .ok (.rdbits 32) := rfl
theorem test_decode_skbits : decode 0b0000000000000000000000_010000_0011 = .ok (.skbits 16) := rfl
theorem test_decode_rdue : decode 0b0000000000000000000000_000000_0100 = .ok .rdue := rfl
theorem test_decode_ptl : decode 0b0000000000000000000000_000111_0101 = .ok (.ptl 7) := rfl

/-- V47, V48. -/
theorem test_decode_refuses_reserved_op :
    decode 0x00000000 = .error (.reservedOp 0) ∧ decode 0x00000006 = .error (.reservedOp 6) ∧
    decode 0x0000000F = .error (.reservedOp 15) := ⟨rfl, rfl, rfl⟩
/-- V49, V52. -/
theorem test_decode_refuses_arg :
    decode 0x00000014 = .error (.argNotZero 4) ∧ decode 0x00000011 = .error (.argNotZero 1) := ⟨rfl, rfl⟩
/-- V19, V20. -/
theorem test_decode_refuses_count :
    decode 0x00000002 = .error (.countOutOfRange 2 0) ∧ decode 0x00000212 = .error (.countOutOfRange 2 33) ∧
    decode 0x00000003 = .error (.countOutOfRange 3 0) := ⟨rfl, rfl, rfl⟩
/-- V50. -/
theorem test_decode_refuses_ptl_8 : decode 0x00000085 = .error (.ptlArgHigh 8) := rfl
/-- V51. -/
theorem test_decode_refuses_z : decode 0x00000401 = .error .nonzeroZ := rfl

/-! ### Commands, one step each -/

/-- V54: INIT leaves a halted block in the initial parse state, LEN, CTRL and IBUF unchanged. -/
theorem test_init_after_a_fault :
    runs 0x00000001
      { strictBuf [0xAB] with halted := true, err := .illegalCommand, errOp := 6, consumed := 8, errpos := 8, result := 7 }
      (fun t => statusWord t = 0 && errInfoWord t = 0 && t.errpos = 0 && t.consumed = 0 && t.result = 0 && t.strict
        && t.len = 1 && t.mem == [(0, 0xAB)]) = true := by decide +kernel

/-- V12: a dropped byte inside one RDBITS 32. -/
theorem test_rdbits_drops_the_escape :
    runs 0x00000202 (buf [0x00, 0x00, 0x03, 0x01, 0xFF]) (fun t =>
      t.result = 0x1FF && t.bytepos = 5 && t.cache = 0xFF && t.cacheBits = 0 && t.h1 = 0xFF && t.h2 = 0x01
        && t.consumed = 32 && !t.padded) = true := by decide +kernel

/-- V8's third read: the cursor a strict fault leaves shows the 0x03 dropped just before the end, the case that sets a
fault's cursor apart from a move's (R129). -/
theorem test_rdbits_strict_end_keeps_the_drop :
    runs 0x00000082 { strictBuf [0, 0, 3] with bytepos := 2, hv := 2, consumed := 16 } (fun t =>
      statusWord t = 0x12 && t.errpos = 16 && t.bytepos = 3 && t.h1 = 0x03 && t.h2 = 0x00 && t.cacheBits = 0) = true := by
  decide +kernel

/-- V21. -/
theorem test_skbits_leaves_result :
    runs 0x00000103 { buf [0xAB, 0xCD] with result := 5 } (fun t =>
      t.result = 5 && t.consumed = 16 && t.bytepos = 2) = true := by decide +kernel

/-- V16's end state, its twelve bits taken by one SKBITS (R93). -/
theorem test_skbits_ends_inside_a_byte :
    runs 0x000000C3 (buf [0xF0, 0x0F]) (fun t =>
      t.bytepos = 2 && t.cache = 0x0F && t.cacheBits = 4 && t.consumed = 12) = true := by decide +kernel

/-- V26: the largest value RDUE returns. -/
theorem test_rdue_largest_value :
    runs 0x00000004 (buf [0, 0, 0, 0, 0xFF, 0xFF, 0xFF, 0xFF, 0x80]) (fun t =>
      t.result = 8589934590 && t.consumed = 65 && t.bytepos = 9 && !t.padded) = true := by decide +kernel

/-- V28: the 33rd zero. -/
theorem test_rdue_malformed :
    runs 0x00000004 (buf [0, 0, 0, 0, 0x40]) (fun t =>
      statusWord t = 0x22 && errInfoWord t = 4 && t.errpos = 33 && t.consumed = 33 && t.bytepos = 5) = true := by
  decide +kernel

/-- E5: the codec-id, its buffer's words and the PTL registers. -/
theorem test_ptl_codec_id :
    runs 0x00000005 (buf [0x41, 0, 0, 0, 0x60, 0, 0, 0, 0, 0, 0x0B, 0x78]) (fun t =>
      t.ptlGen = 0x00007809 && t.ptlCompat = 0x60000000 && t.ptlConsLo = 0 && t.ptlConsHi = 0x0B00 && t.cidlen = 33
        && cidWord 0 t = 0x31637668 && cidWord 1 t = 0x2E31412E && cidWord 4 t = 0x32314C2E
        && cidWord 8 t = 0x30 && cidWord 9 t = 0 && statusWord t = 0x400 && t.consumed = 96) = true := by
  decide +kernel

/-- V46: the sub-layer flags and the bits they skip. -/
theorem test_ptl_sub_layers :
    runs 0x00000025 (buf ([0x01, 0x60, 0, 0, 0, 0x90, 0, 0, 0, 0, 0, 0x78, 0x60, 0x00] ++ List.replicate 12 0x11 ++ [0x77]))
      (fun t => t.ptlSub = 0x00000102 && t.ptlGen = 0x00027808 && t.consumed = 208 && t.bytepos = 26
        && t.cidlen = 17) = true := by decide +kernel

/-- V47: an illegal word, the cursor unchanged. -/
theorem test_illegal_word :
    runs 0x00000000 { buf [0xA5] with bytepos := 1, cache := 0xA5, hv := 1, h1 := 0xA5, consumed := 8 } (fun t =>
      statusWord t = 0x32 && errInfoWord t = 0 && t.errpos = 8 && t.consumed = 8 && t.bytepos = 1) = true := by
  decide +kernel

/-! ### Host accesses -/

/-- V60. -/
theorem test_len_is_capped :
    does (wr 0x010 0x00012345) (buf []) (fun t => (readTarget .len t).1 = 0x1000) = true := by decide +kernel
/-- V53. -/
theorem test_cmd_dropped_while_halted :
    does (wr 0x00C 0x82) { buf [] with halted := true, err := .illegalCommand, errOp := 6 } (fun t =>
      t.running = none && statusWord t = 0x32) = true := by decide +kernel
/-- V55. -/
theorem test_cmd_while_busy_sets_ovr :
    does (wr 0x00C 0x82) { buf [] with running := some 4 } (fun t => t.ovr && t.running = some 4) = true := by
  decide +kernel
/-- V57. -/
theorem test_id_while_busy :
    does (rd 0x000) { buf [] with running := some 4 } (fun t => t.rdata = 0x50544C01) = true := by decide +kernel
/-- P1's first line: the bytes of a word written to IBUF (R53). -/
theorem test_ibuf_write :
    does (wr 0x10000 0x01030000) (buf []) (fun t => t.mem == [(0, 0), (1, 0), (2, 3), (3, 1)]) = true := by
  decide +kernel

/-! ### Witnesses: states and operands that meet a statement's hypotheses -/

/-- A byte and a half read of three, and the block idle. -/
def mid : State :=
  { buf [0xA5, 0x0F, 0x80] with bytepos := 2, cache := 0x0F, cacheBits := 4, hv := 2, h1 := 0x0F, h2 := 0xA5, consumed := 12 }

/-- The same, halted by an IllegalCommand. -/
def halted : State := { mid with halted := true, err := .illegalCommand, errOp := 6, errpos := 12 }

theorem witness_mid_inv : mid.Inv :=
  ⟨by decide, by decide, by decide, by decide, by decide, by decide, by decide, by decide, by decide, by decide⟩

theorem witness_halted_inv : halted.Inv :=
  ⟨by decide, by decide, by decide, by decide, by decide, by decide, by decide, by decide, by decide, by decide⟩

theorem witness_DecodeOfEncodeIsTheCommand :
    (Instr.rdbits 1).wellFormed = true ∧ (Instr.rdbits 32).wellFormed = true ∧ (Instr.skbits 1).wellFormed = true ∧
    (Instr.skbits 32).wellFormed = true ∧ (Instr.ptl 7).wellFormed = true ∧ Instr.init.wellFormed = true ∧
    Instr.rdue.wellFormed = true := by decide

theorem witness_OnlyItsOwnWordDecodesToACommand : decode 0x00000202 = .ok (.rdbits 32) := rfl

theorem witness_EngineTurnRunsTheDecodedCommand :
    ({ mid with running := some 4, inputs := [.engine] } : State).running = some 4 ∧ decode 4 = .ok .rdue ∧
    ({ mid with running := some 4, inputs := [.engine] } : State).inputs = .engine :: [] ∧
    ({ mid with running := some 4 } : State).inputs = [] := ⟨rfl, rfl, rfl, rfl⟩

theorem witness_IllegalWordTakesIllegalCommand :
    ({ mid with running := some 6, inputs := [.engine] } : State).running = some 6 ∧
    decode 6 = .error (.reservedOp 6) ∧
    ({ mid with running := some 6, inputs := [.engine] } : State).inputs = .engine :: [] := ⟨rfl, rfl, rfl⟩

theorem witness_IdleBlockKeepsItsState :
    mid.running = none ∧ mid.inputs = [] ∧ ({ mid with inputs := [.engine] } : State).inputs = .engine :: [] :=
  ⟨rfl, rfl, rfl⟩

theorem witness_InitAgainChangesNothing : ∃ t, exec .init halted = .next t ∧ decide (t.halted = false) = true :=
  of_chk (by decide +kernel)

theorem witness_RdbitsReturnsTheNextStreamBits :
    (Instr.rdbits 32).wellFormed = true ∧ (strictBuf [0, 0, 3, 1, 0xFF]).Readable ∧
    (strictBuf [0, 0, 3, 1, 0xFF]).CanConsume 32 ∧ (budgetBuf [0x80]).Readable ∧ (budgetBuf [0x80]).CanConsume 8 := by
  decide +kernel

theorem witness_SkbitsMovesOverTheNextStreamBits :
    (Instr.skbits 12).wellFormed = true ∧ mid.Readable ∧ { mid with strict := true }.CanConsume 12 ∧
    (Instr.skbits 32).wellFormed = true ∧ mid.CanConsume 32 := by decide +kernel

theorem witness_SkbitsIsRdbitsWithoutTheResult :
    (∃ t, exec (.rdbits 8) mid = .next t ∧ decide (mid.halted = false ∧ t.halted = false) = true) ∧
    (∃ t, exec (.rdbits 32) { mid with strict := true } = .next t ∧ decide (mid.halted = false ∧ t.halted = true) = true) :=
  ⟨of_chk (by decide +kernel), of_chk (by decide +kernel)⟩

theorem witness_PermissiveReadsAlwaysComplete :
    mid.strict = false ∧ mid.budget = false ∧ mid.len.toNat ≤ mid.ibufBytes := by decide

theorem witness_ReadsTakeBufferExhaustedAtTheFirstMissingBit :
    ((strictBuf [0, 0, 3]).Readable ∧ 16 < (17 : BitVec 6).toNat ∧ (strictBuf [0, 0, 3]).FailsAt 16) ∧
    ((strictBuf []).Readable ∧ 0 < (1 : BitVec 6).toNat ∧ (strictBuf []).FailsAt 0) ∧
    ((budgetBuf [0xFF]).Readable ∧ 8 < (32 : BitVec 6).toNat ∧ (budgetBuf [0xFF]).FailsAt 8 ∧
      (budgetBuf [0xFF]).failKind 8 = true) := by decide +kernel

/-- Two completing RDBITS, 1 + 31 bits. -/
theorem witness_RdbitsComposes :
    1 ≤ (1 : BitVec 6).toNat ∧ 1 ≤ (31 : BitVec 6).toNat ∧ (1 : BitVec 6).toNat + (31 : BitVec 6).toNat ≤ 32 ∧
    ∃ t1, exec (.rdbits 1) mid = .next t1 ∧
      chk (exec (.rdbits 31) t1) (fun t2 => t2.halted = false) = true :=
  ⟨by decide, by decide, by decide,
    of_chk (p := fun t1 => chk (exec (.rdbits 31) t1) (fun t2 => t2.halted = false)) (by decide +kernel)⟩

theorem witness_GroupingOfSkipsIsUnobservable :
    mid.running = none ∧
    (([4, 8] : List (BitVec 6)).map fun n => n.toNat).sum = (([12] : List (BitVec 6)).map fun n => n.toNat).sum ∧
    (∃ t, execAll (([4, 8] : List (BitVec 6)).map .skbits) mid = .next t ∧ decide (t.halted = false) = true) ∧
    (∃ t, execAll (([12] : List (BitVec 6)).map .skbits) mid = .next t ∧ decide (t.halted = false) = true) :=
  ⟨rfl, by decide, of_chk (by decide +kernel), of_chk (by decide +kernel)⟩

/-- SKIPL 1 and SKIPL 88, spec/95_test_vectors.md section 7. -/
theorem witness_SkiplSkipsItsBits :
    (strictBuf (List.replicate 11 0xAA)).running = none ∧ (strictBuf (List.replicate 11 0xAA)).Readable ∧
    (strictBuf (List.replicate 11 0xAA)).CanConsume 88 ∧ (strictBuf (List.replicate 11 0xAA)).CanConsume 1 ∧
    skipl 88 = [.skbits 32, .skbits 32, .skbits 24] := by decide +kernel

/-- k = 32 and k = 0, strict. -/
theorem witness_RdueDecodesExpGolomb :
    ((strictBuf [0, 0, 0, 0, 0xFF, 0xFF, 0xFF, 0xFF, 0x80]).Readable ∧
      (∀ i < 32, (strictBuf [0, 0, 0, 0, 0xFF, 0xFF, 0xFF, 0xFF, 0x80]).streamBit i = false) ∧
      (strictBuf [0, 0, 0, 0, 0xFF, 0xFF, 0xFF, 0xFF, 0x80]).streamBit 32 = true ∧
      (strictBuf [0, 0, 0, 0, 0xFF, 0xFF, 0xFF, 0xFF, 0x80]).CanConsume (2 * 32 + 1)) ∧
    ((strictBuf [0x80]).Readable ∧ (strictBuf [0x80]).streamBit 0 = true ∧ (strictBuf [0x80]).CanConsume 1) := by
  decide +kernel

/-- v = 2^33 - 2 (V26) and v = 0. -/
theorem witness_RdueReturnsEveryValueFromItsCode :
    ((strictBuf [0, 0, 0, 0, 0xFF, 0xFF, 0xFF, 0xFF, 0x80]).Readable ∧
      (strictBuf [0, 0, 0, 0, 0xFF, 0xFF, 0xFF, 0xFF, 0x80]).streamVal 0 (2 * 32 + 1) = 2 ^ 33 - 2 + 1 ∧
      (strictBuf [0, 0, 0, 0, 0xFF, 0xFF, 0xFF, 0xFF, 0x80]).CanConsume (2 * 32 + 1)) ∧
    Nat.log2 (2 ^ 33 - 2 + 1) = 32 ∧
    ((strictBuf [0x80]).Readable ∧ (strictBuf [0x80]).streamVal 0 (2 * Nat.log2 (0 + 1) + 1) = 0 + 1 ∧
      (strictBuf [0x80]).CanConsume (2 * Nat.log2 (0 + 1) + 1)) := by
  decide +kernel

theorem witness_RdueTakesMalformedAtTheThirtyThirdZero :
    (strictBuf [0, 0, 0, 0, 0x40]).Readable ∧ (∀ i < 33, (strictBuf [0, 0, 0, 0, 0x40]).streamBit i = false) ∧
    (strictBuf [0, 0, 0, 0, 0x40]).CanConsume 33 := by decide +kernel

/-- V37 (j = 32), V30 (j = 0) and V36 (a bit of the suffix, j = 40). -/
theorem witness_RdueTakesBufferExhaustedAtTheFirstMissingBit :
    ((strictBuf [0, 0, 0, 0]).Readable ∧ (strictBuf [0, 0, 0, 0]).FailsAt 32 ∧
      ∀ i < 32, (strictBuf [0, 0, 0, 0]).streamBit i = false) ∧
    ((strictBuf []).Readable ∧ (strictBuf []).FailsAt 0) ∧
    ((strictBuf [0, 0, 0, 0, 0x80]).Readable ∧ (strictBuf [0, 0, 0, 0, 0x80]).FailsAt 40 ∧
      (∀ i < 32, (strictBuf [0, 0, 0, 0, 0x80]).streamBit i = false) ∧
      (strictBuf [0, 0, 0, 0, 0x80]).streamBit 32 = true) := by decide +kernel

theorem witness_PermissiveRdueAlwaysEnds :
    (buf []).strict = false ∧ (buf []).budget = false ∧ (buf []).len.toNat ≤ (buf []).ibufBytes := by decide

/-- V44 (m = 1), V38's bytes (m = 0), V45 (m = 7). -/
theorem witness_PtlParsesTheStructureAndFormatsTheCodecId :
    ((strictBuf ([1, 0x60, 0, 0, 0, 0x90, 0, 0, 0, 0, 0, 0x78, 0xC0, 0] ++ List.replicate 12 0xAA)).Readable ∧
      (strictBuf ([1, 0x60, 0, 0, 0, 0x90, 0, 0, 0, 0, 0, 0x78, 0xC0, 0] ++ List.replicate 12 0xAA)).CanConsume
        ((strictBuf ([1, 0x60, 0, 0, 0, 0x90, 0, 0, 0, 0, 0, 0x78, 0xC0, 0] ++ List.replicate 12 0xAA)).ptlBits 1)) ∧
    ((strictBuf [1, 0x60, 0, 0, 0, 0x90, 0, 0, 0, 0, 0, 0x78]).Readable ∧
      (strictBuf [1, 0x60, 0, 0, 0, 0x90, 0, 0, 0, 0, 0, 0x78]).CanConsume
        ((strictBuf [1, 0x60, 0, 0, 0, 0x90, 0, 0, 0, 0, 0, 0x78]).ptlBits 0)) ∧
    ((strictBuf [1, 0x60, 0, 0, 0, 0x90, 0, 0, 0, 0, 0, 0x78, 0, 0]).Readable ∧
      (strictBuf [1, 0x60, 0, 0, 0, 0x90, 0, 0, 0, 0, 0, 0x78, 0, 0]).CanConsume
        ((strictBuf [1, 0x60, 0, 0, 0, 0x90, 0, 0, 0, 0, 0, 0x78, 0, 0]).ptlBits 7)) := by decide +kernel

/-- E7. -/
theorem witness_FaultingPtlWritesNoPtlRegister :
    (strictBuf [1, 0x60, 0, 0, 0]).Readable ∧ (strictBuf [1, 0x60, 0, 0, 0]).FailsAt 40 ∧
    40 < (strictBuf [1, 0x60, 0, 0, 0]).ptlBits 0 ∧ (budgetBuf [1, 0x60, 0, 0, 0]).FailsAt 40 := by decide +kernel

theorem witness_PermissivePtlAlwaysCompletes :
    mid.strict = false ∧ mid.budget = false ∧ mid.len.toNat ≤ mid.ibufBytes := by decide

theorem witness_CodecIdFitsTheCidBuffer :
    (List.replicate 6 (0x0B : Byte)).length = 6 ∧ mid.halted = false ∧
    ∃ t, exec (.ptl 0) mid = .next t ∧ decide (t.halted = false) = true :=
  ⟨by decide, rfl, of_chk (by decide +kernel)⟩

theorem witness_DecAndHexWriteTheNumberWithoutLeadingZeros :
    (0 < 120) ∧ dec 120 = ['1', '2', '0'] ∧ hex 11 = ['b'] := by decide +kernel

/-- V41, V40 and V42's constraint bytes. -/
theorem witness_ConstraintTokensStartAtTheHighestNonzeroByte :
    (∀ c ∈ List.replicate 6 (0 : Byte), c = 0) ∧
    (5 < (List.replicate 6 (0xFF : Byte)).length ∧ (List.replicate 6 (0xFF : Byte)).getD 5 0 ≠ 0 ∧
      ∀ i, 5 < i → (List.replicate 6 (0xFF : Byte)).getD i 0 = 0) ∧
    (3 < ([0, 5, 0, 0x0A, 0, 0] : List Byte).length ∧ ([0, 5, 0, 0x0A, 0, 0] : List Byte).getD 3 0 ≠ 0 ∧
      ∀ i, 3 < i → ([0, 5, 0, 0x0A, 0, 0] : List Byte).getD i 0 = 0) := by
  refine ⟨by decide, ⟨by decide, by decide, fun i hi => ?_⟩, by decide, by decide, fun i hi => ?_⟩
  · simp [List.getD, Nat.not_lt.mpr hi]
  · match i, hi with
    | 4, _ => rfl
    | 5, _ => rfl
    | _ + 6, _ => rfl

theorem witness_CommandsReadTheBufferWithEscapesDeleted :
    (buf [0, 0, 3, 2]).Readable ∧ (buf [0, 0, 3, 2]).strict = false ∧ (buf [0, 0, 3, 2]).budget = false ∧
    (buf [0, 0, 3, 2]).bytepos = 0 ∧ (buf [0, 0, 3, 2]).cacheBits = 0 ∧ (buf [0, 0, 3, 2]).hv = 0 ∧
    (8 : BitVec 6).toNat ≤ 32 := by decide +kernel

/-- The fetch that drops the 0x03 and goes on delivers, or raises at the end in strict mode. -/
theorem witness_FetchTakesAtMostTwoRawBytes :
    (match fetchDelivered { buf [0, 0, 3, 2] with bytepos := 2, hv := 2 } with
      | .ok b t => b = 2 ∧ t.bytepos = 4
      | _ => False) ∧
    (match fetchDelivered { strictBuf [0, 0, 3] with bytepos := 2, hv := 2 } with
      | .raise e t => e = .strictEnd ∧ t.bytepos = 3
      | _ => False) := by
  constructor <;> exact ⟨rfl, rfl⟩

theorem witness_UnwrittenByteIsDelivered :
    ({ buf [] with len := 1 } : State).bytepos.toNat < ({ buf [] with len := 1 } : State).len.toNat ∧
    ({ buf [] with len := 1 } : State).len.toNat ≤ ({ buf [] with len := 1 } : State).ibufBytes ∧
    ({ buf [] with len := 1 } : State).mem.read 0 = none ∧ ({ buf [] with len := 1 } : State).budget = false ∧
    ({ buf [] with len := 1 } : State).cacheBits = 0 ∧ ({ buf [] with len := 1 } : State).lastRaw ≠ some 0x00 := by
  decide

/-- Each command but INIT completes from `mid`. -/
theorem witness_CommandFrame :
    ∀ i ∈ [Instr.rdbits 8, .skbits 32, .rdue, .ptl 1],
      i ≠ .init ∧ ∃ t, exec i mid = .next t ∧ decide (mid.halted = false ∧ t.halted = false) = true := by
  intro i hi
  fin_cases hi <;> exact ⟨by decide, of_chk (by decide +kernel)⟩

/-- BufferExhausted of both kinds and MalformedExpGolombCode; the hypotheses of the next two statements too. -/
theorem witness_FaultingCommandMakesNoFinalWrite :
    (∃ t, exec (.ptl 0) (strictBuf [1]) = .next t ∧
      decide (t.halted = true ∧ t.err = .bufferExhausted ∧ t.errKind = false) = true) ∧
    (∃ t, exec (.rdbits 32) (budgetBuf [1]) = .next t ∧
      decide (t.halted = true ∧ t.err = .bufferExhausted ∧ t.errKind = true) = true) ∧
    (∃ t, exec .rdue (buf []) = .next t ∧
      decide (t.halted = true ∧ t.err = .malformedExpGolombCode ∧ t.errKind = false) = true) ∧
    (strictBuf [1]).halted = false ∧ (budgetBuf [1]).halted = false ∧ (buf []).halted = false :=
  ⟨of_chk (by decide +kernel), of_chk (by decide +kernel), of_chk (by decide +kernel), rfl, rfl, rfl⟩

theorem witness_ErrorsComeOnlyFromTheCommandsThatRaiseThem :
    (strictBuf [1]).halted = false ∧ (budgetBuf [0]).halted = false ∧ (buf [0]).halted = false ∧
    (∃ t, exec (.skbits 9) (strictBuf [1]) = .next t ∧
      decide (t.halted = true ∧ t.err = .bufferExhausted ∧ t.errKind = false) = true) ∧
    (∃ t, exec .rdue (budgetBuf [0]) = .next t ∧ decide (t.halted = true ∧ t.errKind = true) = true) ∧
    (∃ t, exec .rdue (buf [0]) = .next t ∧
      decide (t.halted = true ∧ t.err = .malformedExpGolombCode) = true) :=
  ⟨rfl, rfl, rfl, of_chk (by decide +kernel), of_chk (by decide +kernel), of_chk (by decide +kernel)⟩

/-- R135's three STATUS values. -/
theorem witness_StatusWordAfterAFault :
    (strictBuf []).halted = false ∧ (buf [0, 0, 0, 0, 0x40]).halted = false ∧ (buf []).halted = false ∧
    (∃ t, runWord 0x12 (strictBuf []) = .next t ∧ decide (t.halted = true ∧ statusWord t = 0x12) = true) ∧
    (∃ t, runWord 0x4 (buf [0, 0, 0, 0, 0x40]) = .next t ∧ decide (t.halted = true ∧ statusWord t = 0x22) = true) ∧
    (∃ t, runWord 0x6 (buf []) = .next t ∧ decide (t.halted = true ∧ statusWord t = 0x32) = true) :=
  ⟨rfl, rfl, rfl, of_chk (by decide +kernel), of_chk (by decide +kernel), of_chk (by decide +kernel)⟩

/-- RDUE at its bound of 65 bits. -/
theorem witness_EveryCommandConsumesBoundedBits :
    ∃ t, exec .rdue (buf [0, 0, 0, 0, 0xFF, 0xFF, 0xFF, 0xFF, 0x80]) = .next t ∧
      decide (t.consumed.toNat = 0 + bitBound .rdue) = true := of_chk (by decide +kernel)

/-- The next input is no engine's turn and does not reset: the step neither runs INIT nor resets. -/
theorem of_access {s : State} {a : Access} {rest : List Input} (h : s.inputs = .access a :: rest) :
    ¬ s.runsInit ∧ ¬ s.resets := by
  simp [State.runsInit, State.resets, h]

/-- A command run, a polled STATUS while an accepted INIT waits, and an `rst` that stays low. -/
theorem witness_PositionNeverMovesBackwards :
    (∃ t, step { mid with running := some 0x82 } = .next t ∧ decide (t.consumed = 20) = true) ∧
    ¬ ({ mid with running := some 0x82 } : State).runsInit ∧ ¬ ({ mid with running := some 0x82 } : State).resets ∧
    (∃ t, step { mid with running := some 1, inputs := [rd 0x008] } = .next t ∧ decide (t.consumed = 12) = true) ∧
    (¬ ({ mid with running := some 1, inputs := [rd 0x008] } : State).runsInit ∧
      ¬ ({ mid with running := some 1, inputs := [rd 0x008] } : State).resets) ∧
    (∃ t, step { mid with inputs := [.rst false] } = .next t ∧ decide (t.consumed = 12) = true) ∧
    ¬ ({ mid with inputs := [.rst false] } : State).runsInit ∧ ¬ ({ mid with inputs := [.rst false] } : State).resets := by
  refine ⟨of_chk (by decide +kernel), by simp [State.runsInit], by simp [State.resets, mid, buf, State.reset],
    of_chk (by decide +kernel), of_access rfl, of_chk (by decide +kernel), by simp [State.runsInit, mid, buf, State.reset],
    by simp [State.resets, mid, buf, State.reset]⟩

/-- A halted block, and one with PADDED, OVR and CIDV set and an accepted INIT waiting, that a host access leaves so. -/
theorem witness_StickyFlagsAndFaultRecordStay :
    (({ halted with inputs := [rd 0x008] } : State).Inv ∧
      (¬ ({ halted with inputs := [rd 0x008] } : State).runsInit ∧
        ¬ ({ halted with inputs := [rd 0x008] } : State).resets) ∧
      ∃ t, step { halted with inputs := [rd 0x008] } = .next t ∧ decide (t.rdata = 0x32) = true) ∧
    (({ mid with
        padded := true, ovr := true, cidv := true, cidlen := 11, running := some 1, inputs := [wr 0x00C 4] } : State).Inv ∧
      (¬ ({ mid with
            padded := true, ovr := true, cidv := true, cidlen := 11, running := some 1,
            inputs := [wr 0x00C 4] } : State).runsInit ∧
        ¬ ({ mid with
            padded := true, ovr := true, cidv := true, cidlen := 11, running := some 1,
            inputs := [wr 0x00C 4] } : State).resets) ∧
      ∃ t, step { mid with
          padded := true, ovr := true, cidv := true, cidlen := 11, running := some 1, inputs := [wr 0x00C 4] } = .next t ∧
        decide (t.padded = true ∧ t.ovr = true ∧ t.cidv = true) = true) :=
  ⟨⟨⟨by decide, by decide, by decide, by decide, by decide, by decide, by decide, by decide, by decide, by decide⟩,
      of_access rfl, of_chk (by decide +kernel)⟩,
    ⟨by decide, by decide, by decide, by decide, by decide, by decide, by decide, by decide, by decide, by decide⟩,
    of_access rfl, of_chk (by decide +kernel)⟩

theorem witness_BytesAlreadyFetchedAreNotReadAgain :
    (1 < mid.bytepos.toNat ∨ mid.len.toNat ≤ 1) ∧ (3 < mid.bytepos.toNat ∨ mid.len.toNat ≤ 3) ∧
    ∃ t, exec (.rdbits 8) mid = .next t ∧ decide (t.result = 0xF8) = true :=
  ⟨by decide, by decide, of_chk (by decide +kernel)⟩

theorem witness_CursorPairIsConsumedByEight : mid.Inv ∧ mid.consumed ≠ 0xFFFFFFFF := ⟨witness_mid_inv, by decide⟩

/-- An idle block whose host makes one access. -/
theorem witness_idle_accesses (i : Input) :
    ({ mid with inputs := [i] } : State).running = none ∧ ({ mid with inputs := [i] } : State).rst = false ∧
    ({ mid with inputs := [i] } : State).inputs = i :: [] ∧ ({ mid with inputs := [i] } : State).ParameterLegal :=
  ⟨rfl, rfl, rfl, witness_mid_inv.1⟩

theorem witness_CtrlWriteTakesItsTwoBits :
    ({ mid with inputs := [wr 0x004 3] } : State).inputs = .access (.write 32 0x004 3) :: [] ∧
    ({ mid with inputs := [wr 0x004 3] } : State).running = none ∧
    ({ mid with inputs := [wr 0x004 3] } : State).rst = false := ⟨rfl, rfl, rfl⟩

theorem witness_LenWriteStoresTheMinimum :
    ({ mid with inputs := [wr 0x010 0x12345] } : State).inputs = .access (.write 32 0x010 0x12345) :: [] ∧
    ({ mid with inputs := [wr 0x010 0x12345] } : State).running = none ∧
    ({ mid with inputs := [wr 0x010 0x12345] } : State).rst = false := ⟨rfl, rfl, rfl⟩

/-- Word 0, and the last word of an IBUF of 6 bytes, half of which does not exist. -/
theorem witness_IbufWriteSetsItsBytes :
    (({ mid with inputs := [wr (ibufOffset 0) 7] } : State).ParameterLegal ∧ 4 * 0 < mid.ibufBytes ∧
      mid.running = none ∧ mid.rst = false ∧
      ({ mid with inputs := [wr (ibufOffset 0) 7] } : State).inputs = .access (.write 32 (ibufOffset 0) 7) :: []) ∧
    (({ mid with ibufBytes := 6, inputs := [wr (ibufOffset 1) 7] } : State).ParameterLegal ∧ 4 * 1 < 6 ∧
      ({ mid with ibufBytes := 6, inputs := [wr (ibufOffset 1) 7] } : State).running = none ∧
      ({ mid with ibufBytes := 6, inputs := [wr (ibufOffset 1) 7] } : State).rst = false ∧
      ({ mid with ibufBytes := 6, inputs := [wr (ibufOffset 1) 7] } : State).inputs =
        .access (.write 32 (ibufOffset 1) 7) :: []) := by decide

/-- An IBUF of 3 bytes, all written: the fourth byte of the word reads 0. -/
theorem witness_IbufReadReturnsItsBytes :
    ({ mid with ibufBytes := 3, inputs := [rd (ibufOffset 0)] } : State).ParameterLegal ∧
    ({ mid with ibufBytes := 3, inputs := [rd (ibufOffset 0)] } : State).running = none ∧ 4 * 0 < 3 ∧
    ({ mid with ibufBytes := 3, inputs := [rd (ibufOffset 0)] } : State).inputs =
      .access (.read 32 (ibufOffset 0)) :: [] ∧
    ∀ k < 4, if 4 * 0 + k < 3
      then ({ mid with ibufBytes := 3, inputs := [rd (ibufOffset 0)] } : State).mem.read (4 * 0 + k) =
        some (([0xA5, 0x0F, 0x80] : List Byte).getD k 0)
      else ([0xA5, 0x0F, 0x80] : List Byte).getD k 0 = 0 := by decide

/-- A word of an IBUF of 2 bytes, the first written and the second not: the hypotheses of the second part. -/
theorem witness_IbufReadReturnsItsBytes_unwritten :
    ({ buf [0xA5] with ibufBytes := 2, inputs := [rd (ibufOffset 0)] } : State).ParameterLegal ∧
    ({ buf [0xA5] with ibufBytes := 2, inputs := [rd (ibufOffset 0)] } : State).running = none ∧ 4 * 0 < 2 ∧
    ({ buf [0xA5] with ibufBytes := 2, inputs := [rd (ibufOffset 0)] } : State).inputs =
      .access (.read 32 (ibufOffset 0)) :: [] ∧
    ({ buf [0xA5] with ibufBytes := 2, inputs := [rd (ibufOffset 0)] } : State).unwrittenBefore 0 4 = 1 ∧
    ({ buf [0xA5] with ibufBytes := 2, inputs := [rd (ibufOffset 0)] } : State).unwrittenBefore 0 1 = 0 := by decide

/-- STATUS, the first row and the last one of the map. -/
theorem witness_IdleReadsFollowTheRegisterMap :
    ({ halted with inputs := [rd 0x008] } : State).running = none ∧
    (0x008, 0x32) ∈ registerMap { halted with inputs := [rd 0x008] } ∧
    ({ halted with inputs := [rd 0x008] } : State).inputs = .access (.read 32 (BitVec.ofNat 17 0x008)) :: [] ∧
    (0x000, 0x50544C01) ∈ registerMap halted ∧ (0x0A4, 0) ∈ registerMap halted := by decide +kernel

/-- The first and the last reserved offset below IBUF, the first one above it; the read-only ends. -/
theorem witness_ReservedAndReadOnlyOffsetsIgnoreWrites :
    reservedOffset 4096 0x048 ∧ reservedOffset 4096 0x07C ∧ reservedOffset 4096 0x0A8 ∧ reservedOffset 4096 0x0FFFC ∧
    reservedOffset 4096 0x11000 ∧ ¬ reservedOffset 4096 0x10FFC ∧ ¬ reservedOffset 4096 0x044 ∧
    ¬ reservedOffset 4096 0x080 ∧ ¬ reservedOffset 4096 0x0A4 ∧
    (0x048 : Offset).toNat % 4 = 0 ∧ (0x11000 : Offset).toNat % 4 = 0 ∧ (0x0A4 : Offset).toNat % 4 = 0 ∧
    mid.ibufBytes = 4096 ∧ ({ mid with inputs := [rd 0x048] } : State).inputs = .access (.read 32 0x048) :: [] ∧
    ({ mid with inputs := [wr 0x0A4 1] } : State).inputs = .access (.write 32 0x0A4 1) :: [] := by
  unfold reservedOffset; decide

theorem witness_CmdWriteIsAcceptedOrDroppedWhileHalted :
    ({ halted with inputs := [wr 0x00C 0x82] } : State).running = none ∧
    ({ halted with inputs := [wr 0x00C 0x82] } : State).rst = false ∧ halted.halted = true ∧
    (0x82 : Word) ≠ 0x00000001 ∧
    ({ halted with inputs := [wr 0x00C 0x82] } : State).inputs = .access (.write 32 0x00C 0x82) :: [] ∧
    mid.halted = false ∧ mid.running = none ∧ mid.rst = false ∧
    ({ mid with inputs := [wr 0x00C 0x82] } : State).inputs = .access (.write 32 0x00C 0x82) :: [] := by decide

theorem witness_WritesWhileBusyAreDropped :
    ({ mid with running := some 4, inputs := [wr 0x00C 1] } : State).busy = true ∧ mid.rst = false ∧
    ({ mid with running := some 4, inputs := [wr 0x00C 1] } : State).inputs = .access (.write 32 0x00C 1) :: [] ∧
    ({ mid with running := some 4, inputs := [wr 0x10000 1] } : State).inputs = .access (.write 32 0x10000 1) :: [] ∧
    (0x00C : Offset).toNat % 4 = 0 ∧ (0x10000 : Offset).toNat % 4 = 0 ∧ (0x10000 : Offset).toNat ≠ 0x00C := by decide

theorem witness_ReadsWhileBusyChangeNoRegister :
    ({ mid with running := some 4, inputs := [rd 0x008] } : State).busy = true ∧ (0x008 : Offset).toNat % 4 = 0 ∧
    (0x000 : Offset).toNat % 4 = 0 ∧
    ({ mid with running := some 4, inputs := [rd 0x008] } : State).inputs = .access (.read 32 0x008) :: [] := by decide

theorem witness_ResetInputGivesTheResetValues :
    ({ mid with running := some 4, inputs := [.rst true] } : State).inputs = .rst true :: [] ∧
    (true = true ∨ mid.rst = true) ∧ ({ mid.applyReset true with inputs := [.rst false] } : State).rst = true :=
  ⟨rfl, by decide, rfl⟩

theorem witness_AccessesDuringResetHaveNoEffect :
    ({ mid.applyReset true with inputs := [rd 0x010] } : State).rst = true ∧ (0x010 : Offset).toNat % 4 = 0 ∧
    (0x010 : Offset).toNat < 0x10000 ∧
    ({ mid.applyReset true with inputs := [rd 0x010] } : State).inputs = .access (.read 32 0x010) :: [] ∧
    ({ mid.applyReset true with inputs := [wr 0x010 1] } : State).inputs = .access (.write 32 0x010 1) :: [] ∧
    ({ mid.applyReset true with inputs := [rd 0x010] } : State).Inv :=
  ⟨rfl, by decide, by decide, rfl, rfl,
    by decide, by decide, by decide, by decide, by decide, by decide, by decide, by decide, by decide, by decide⟩

/-- A busy block that the host polls before the engine moves. -/
theorem witness_EveryAcceptedCommandCompletes :
    ({ mid with running := some 4, inputs := [rd 0x008] } : State).Inv ∧
    ({ mid with running := some 4, inputs := [rd 0x008] } : State).busy = true ∧
    ∀ i ∈ ({ mid with running := some 4, inputs := [rd 0x008] } : State).inputs,
      ∃ a, a.toNat % 4 = 0 ∧ i = .access (.read 32 a) := by
  refine ⟨⟨by decide, by decide, by decide, by decide, by decide, by decide, by decide, by decide, by decide,
    by decide⟩, rfl, fun i hi => ?_⟩
  simp only [List.mem_singleton] at hi
  exact ⟨0x008, by decide, hi⟩

theorem witness_PolledMnemonicRunsItsCommand :
    (Instr.ptl 0).wellFormed = true ∧ ({ mid with inputs := mnemonic 2 (.ptl 0) ++ [] } : State).running = none ∧
    ({ mid with inputs := mnemonic 2 (.ptl 0) ++ [] } : State).halted = false ∧
    ({ mid with inputs := mnemonic 2 (.ptl 0) ++ [] } : State).rst = false ∧
    ({ mid with inputs := mnemonic 2 (.ptl 0) ++ [] } : State).Readable ∧
    ∃ t, exec (.ptl 0) { mid with inputs := mnemonic 2 (.ptl 0) ++ [] } = .next t ∧ decide (t.cidv = true) = true :=
  ⟨rfl, rfl, rfl, rfl, by decide +kernel, of_chk (by decide +kernel)⟩

/-- A step of a busy block with the invariant. -/
theorem witness_EveryStepKeepsTheInvariant :
    ({ mid with running := some 0x15 } : State).Inv ∧
    ∃ t, step { mid with running := some 0x15 } = .next t ∧ decide (t.cidv = true) = true :=
  ⟨⟨by decide, by decide, by decide, by decide, by decide, by decide, by decide, by decide, by decide, by decide⟩,
    of_chk (by decide +kernel)⟩

theorem witness_NoStepFaultsFromTheInvariant : mid.Inv := witness_mid_inv

end Sys2Proof.Tests
end

section
/-! What reset leaves (R47, R49, R145): the register map of the reset values, and O55. -/
namespace Sys2Proof.Machine

/-- IBUF_BYTES of this block is in its range (R7). -/
theorem State.reset_parameterLegal : State.reset.ParameterLegal :=
  ⟨Nat.le_add_left 1 _, Config.ibufBytesLessOne.isLt⟩

/-- A cleared CID buffer reads 0 at every index (R38, R48). -/
theorem applyReset_cid_getD (level : Bool) (s : State) (j : Nat) : (s.applyReset level).cid.getD j 0 = 0 := by
  rw [State.applyReset_cid, List.getD_eq_getElem?_getD, List.getElem?_getD_replicate_default_eq]

/-- The reset column of R14: after reset every register of the map holds 0, but ID its constant (R47, R145). -/
theorem registerMap_applyReset (level : Bool) (s : State) :
    ∀ r ∈ registerMap (s.applyReset level), r.2 = if r.1 = 0 then 0x50544C01 else 0 := by
  refine List.forall_mem_append.2 ⟨?namedRegisters, ?cidWords⟩
  case namedRegisters => simp [ErrCode.code]
  case cidWords =>
    intro r hr
    obtain ⟨w, -, rfl⟩ := List.mem_map.1 hr
    simp only [applyReset_cid_getD]
    simp

/-- Applying reset to the state after reset changes nothing (R145). -/
theorem State.applyReset_reset : State.reset.applyReset false = State.reset := rfl

/-- Settles O55: applying reset to `State.reset` changes nothing, so its registers are those of `registerMap_applyReset`. -/
theorem resetLeavesTheBlockIdle : Obligations.ResetLeavesTheBlockIdle := by
  unfold Obligations.ResetLeavesTheBlockIdle
  refine ⟨rfl, ?_, Memory.read_nil, State.reset_parameterLegal⟩
  rw [← State.applyReset_reset]
  exact registerMap_applyReset false State.reset

end Sys2Proof.Machine
end

section
/-! What a command and a step can do, said once for the statements about frames, order and the invariant: INIT's parse
state (O8), the frame of the other commands (O34), positions that only grow (O39), sticky flags and the record (O40). -/
namespace Sys2Proof.Machine

/-! ### Commands -/

/-- Settles O8: INIT writes the initial parse state and clears BUSY; every field is the literal of `State.initParse`. -/
theorem initSetsTheInitialParseState : Obligations.InitSetsTheInitialParseState := by
  intro s
  refine ⟨s.initParse.complete, rfl, ?_⟩
  simp [State.SameHostSide]

theorem Moves.sameHostSide {s t : State} (h : Moves s t) : s.SameHostSide t :=
  ⟨fun a => by rw [h.mem], h.ibufBytes, h.strict, h.budget, h.len, h.rst, h.rdata, h.inputs⟩

theorem Moves.samePtl {s t : State} (h : Moves s t) : s.SamePtl t :=
  ⟨h.ptlGen, h.ptlCompat, h.ptlConsLo, h.ptlConsHi, h.ptlSub, h.cidlen, h.cid, h.cidv⟩

theorem Moves.sameRecord {s t : State} (h : Moves s t) : s.SameRecord t :=
  ⟨h.halted, h.err, h.errOp, h.errKind, h.errpos⟩

/-- Settles O34: what a command writes besides the cursor is its final write, or the fault record. -/
theorem commandFrame : Obligations.CommandFrame := by
  intro i s t hi h
  rcases exec_cases h with ⟨h, -⟩ | ⟨-, u, hu, ⟨w, hc, rfl⟩ | ⟨e, -, rfl⟩⟩
  · exact absurd h hi
  · have record : s.halted = false → w.complete.halted = false → s.SameRecord w.complete := fun _ _ => by
      cases hc <;> exact hu.sameRecord
    cases hc with
    | rdbits n v => exact ⟨hu.sameHostSide, hu.ovr, rfl, by simp [Instr.op], fun _ => hu.samePtl, record⟩
    | skbits n => exact ⟨hu.sameHostSide, hu.ovr, rfl, fun _ => hu.result, fun _ => hu.samePtl, record⟩
    | rdue v => exact ⟨hu.sameHostSide, hu.ovr, rfl, by simp [Instr.op], fun _ => hu.samePtl, record⟩
    | ptl m f => exact ⟨hu.sameHostSide, hu.ovr, rfl, fun _ => hu.result, fun h => absurd rfl h, record⟩
  · exact ⟨hu.sameHostSide, hu.ovr, rfl, fun _ => hu.result, fun _ => hu.samePtl, fun _ h => by simp at h⟩

/-- A command other than INIT that answers a next state has a cursor that a move of the cursor leaves. -/
theorem exec_position {i : Instr} {s t : State} (hi : i ≠ .init) (h : exec i s = .next t) :
    s.consumed.toNat ≤ t.consumed.toNat ∧ s.bytepos.toNat ≤ t.bytepos.toNat := by
  rcases exec_cases h with ⟨h, -⟩ | ⟨-, u, hu, ⟨w, hc, rfl⟩ | ⟨e, -, rfl⟩⟩
  · exact absurd h hi
  · cases hc <;> exact ⟨hu.consumed, hu.bytepos⟩
  · exact ⟨hu.consumed, hu.bytepos⟩

/-- A command other than INIT clears no sticky flag (R43, R132). -/
theorem exec_sticky {i : Instr} {s t : State} (hi : i ≠ .init) (h : exec i s = .next t) :
    (s.padded = true → t.padded = true) ∧ (s.ovr = true → t.ovr = true) ∧ (s.cidv = true → t.cidv = true) := by
  rcases exec_cases h with ⟨h, -⟩ | ⟨-, u, hu, ⟨w, hc, rfl⟩ | ⟨e, -, rfl⟩⟩
  · exact absurd h hi
  · refine ⟨fun hp => ?_, fun ho => ?_, fun hv => ?_⟩
    · cases hc <;> exact hu.padded hp
    · cases hc <;> exact hu.ovr.trans ho
    · cases hc with
      | ptl m f => rfl
      | _ => exact hu.cidv.trans hv
  · exact ⟨hu.padded, fun ho => hu.ovr.trans ho, fun hv => hu.cidv.trans hv⟩

/-! ### The word of INIT -/

/-- A word is its three fields put together (R75). -/
theorem word_eq_fields (w : Word) : w = zField w ++ argField w ++ opField w := by
  apply BitVec.eq_of_getLsbD_eq
  intro i hi
  simp only [BitVec.getLsbD_append, opField, argField, zField, BitVec.getLsbD_extractLsb']
  split
  · simp_all
  · split
    · rw [decide_eq_true ‹_›, Bool.true_and, Nat.add_sub_cancel' (by omega)]
    · rw [decide_eq_true (by omega), Bool.true_and]
      congr 1
      omega

/-- INIT's one word (R79). -/
theorem decode_eq_init {w : Word} (h : decode w = .ok .init) : w = 0x00000001 := by
  have fields : zField w = 0 ∧ opField w = 0x1 ∧ argField w = 0 := by
    simp only [decode] at h
    split_ifs at h <;> simp_all
  obtain ⟨hz, ho, ha⟩ := fields
  rw [word_eq_fields w, hz, ho, ha]
  rfl

theorem decode_initWord : decode 0x00000001 = .ok .init := rfl

/-! ### Steps -/

/-- What a step that answers a next state has done; `rest` are the inputs left (R74). -/
inductive StepDoes (s : State) (rest : List Input) : State → Prop where
  /-- The engine has no command to run (R143). -/
  | idle : s.running = none → StepDoes s rest (s.setInputs rest)
  /-- The accepted word is illegal (R127). -/
  | illegal {w : Word} {e : IllegalWord} : s.running = some w → decode w = .error e →
      StepDoes s rest ((s.setInputs rest).faultEntry .illegalCommand (opField w))
  /-- The engine runs the accepted command (R76). -/
  | command {w : Word} {i : Instr} {t : State} : s.inputs = [] ∨ s.inputs = .engine :: rest → s.running = some w →
      decode w = .ok i → exec i (s.setInputs rest) = .next t → StepDoes s rest t
  /-- A host read (R65). -/
  | read (v : Word) (d : Nat) : StepDoes s rest { s with inputs := rest, rdata := v, draws := d }
  /-- A host write. -/
  | write (target : Target) (v : Word) : StepDoes s rest (hostWrite target v (s.setInputs rest))
  /-- The `rst` input goes to a level (R145). -/
  | reset (level : Bool) : s.inputs = .rst level :: rest → StepDoes s rest (resetInput level (s.setInputs rest))

/-- The engine's turn, when it is next. -/
theorem engineTurn_does {s t : State} {rest : List Input} (hn : s.inputs = [] ∨ s.inputs = .engine :: rest)
    (h : engineTurn (s.setInputs rest) = .next t) : StepDoes s rest t := by
  rcases engineTurn_cases (s.setInputs rest) with ⟨hr, he⟩ | ⟨w, e, hr, hd, he⟩ | ⟨w, i, hr, hd, he⟩ <;> rw [he] at h
  · cases h
    exact .idle hr
  · cases h
    exact .illegal hr hd
  · exact .command hn hr hd h

/-- The inversion of a step that answers a next state. -/
theorem step_does {s t : State} (h : step s = .next t) : ∃ rest, StepDoes s rest t := by
  rcases step_cases s with ⟨hin, hs⟩ | ⟨rest, hin, hs⟩ | ⟨a, rest, -, hs⟩ | ⟨level, rest, hin, hs⟩ <;> rw [hs] at h
  · have same : s.setInputs [] = s := by rw [← hin]; rfl
    exact ⟨[], engineTurn_does (.inl hin) (same ▸ h)⟩
  · exact ⟨rest, engineTurn_does (.inr hin) h⟩
  · refine ⟨rest, ?_⟩
    rcases hostAccess_cases a (s.setInputs rest) with ⟨r, ha⟩ | ⟨o, -, ha⟩ | ⟨o, v, -, ha⟩ <;> rw [ha] at h
    · cases h
    · obtain ⟨v, d, -, hk⟩ := hostRead_keeps (targetOf (s.setInputs rest).ibufBytes o) (s.setInputs rest)
      rw [hk] at h
      cases h
      exact .read v d
    · cases h
      exact .write _ v
  · cases h
    exact ⟨rest, .reset level hin⟩

/-- The engine's turn that runs INIT is the step that `State.runsInit` names. -/
theorem runsInit_of_command {s : State} {rest : List Input} {w : Word}
    (hn : s.inputs = [] ∨ s.inputs = .engine :: rest) (hr : s.running = some w) (hd : decode w = .ok .init) :
    s.runsInit :=
  ⟨by rw [hr, decode_eq_init hd], hn.imp id fun h => ⟨rest, h⟩⟩

/-- A level of `rst` that stays low changes nothing (log entry 11). -/
theorem resetInput_of_not_resets {s : State} {rest : List Input} {level : Bool} (hin : s.inputs = .rst level :: rest)
    (h : ¬ s.resets) : resetInput level (s.setInputs rest) = s.setInputs rest := by
  have low : level = false ∧ s.rst = false := by
    refine ⟨Bool.eq_false_iff.2 fun hl => h ⟨level, rest, hin, .inl hl⟩, ?_⟩
    exact Bool.eq_false_iff.2 fun hr => h ⟨level, rest, hin, .inr hr⟩
  simp [resetInput, low]

/-- A host write leaves the record, the cursor, RESULT, the PTL registers and PADDED, and clears no OVR (R14, R151). -/
theorem hostWrite_keeps (target : Target) (v : Word) (s : State) :
    s.SameRecord (hostWrite target v s) ∧ s.SameCursor (hostWrite target v s) ∧ s.SamePtl (hostWrite target v s) ∧
    (hostWrite target v s).result = s.result ∧ (hostWrite target v s).padded = s.padded ∧
    (s.ovr = true → (hostWrite target v s).ovr = true) := by
  have same : ∀ t : State, t = s → s.SameRecord t ∧ s.SameCursor t ∧ s.SamePtl t ∧ t.result = s.result ∧
      t.padded = s.padded ∧ (s.ovr = true → t.ovr = true) := by
    rintro t rfl
    simp [State.SameRecord, State.SameCursor, State.SamePtl]
  rcases hostWrite_cases target v s with h | ⟨-, -, -, h⟩ | ⟨-, -, -, h⟩ | ⟨-, -, -, h⟩ | ⟨-, -, -, -, h⟩ |
    ⟨-, -, j, -, h⟩ <;> rw [h]
  · exact same s rfl
  · simp [State.SameRecord, State.SameCursor, State.SamePtl]
  · exact same s rfl
  · exact same s rfl
  · exact same s rfl
  · rw [writeIbufWord_keeps]
    exact same s rfl

/-- Settles O39: only the engine moves the cursor, and a command other than INIT moves it forwards. -/
theorem positionNeverMovesBackwards : Obligations.PositionNeverMovesBackwards := by
  intro s t h hinit hreset
  obtain ⟨rest, hd⟩ := step_does h
  cases hd with
  | idle hr => exact ⟨le_rfl, le_rfl⟩
  | illegal hr hd => exact ⟨le_rfl, le_rfl⟩
  | command hn hr hd he =>
    refine exec_position (s := s.setInputs rest) ?_ he
    rintro rfl
    exact hinit (runsInit_of_command hn hr hd)
  | read v d => exact ⟨le_rfl, le_rfl⟩
  | write target v =>
    obtain ⟨-, ⟨hb, -, -, -, -, -, hc⟩, -⟩ := hostWrite_keeps target v (s.setInputs rest)
    exact ⟨hc ▸ le_rfl, hb ▸ le_rfl⟩
  | reset level hin =>
    rw [resetInput_of_not_resets hin hreset]
    exact ⟨le_rfl, le_rfl⟩

/-- Settles O40: while halted the engine has nothing but INIT to run, and a host write touches none of these fields. -/
theorem stickyFlagsAndFaultRecordStay : Obligations.StickyFlagsAndFaultRecordStay := by
  intro s t hs h hinit hreset
  obtain ⟨-, -, -, -, -, -, halt, -⟩ := hs
  have onlyInit : ∀ {w}, s.running = some w → s.halted = true → w = 0x00000001 := fun hr hh => by
    simpa [hr] using halt hh
  have unchanged : ∀ u : State, u = s → (s.padded = true → u.padded = true) ∧ (s.ovr = true → u.ovr = true) ∧
      (s.cidv = true → u.cidv = true) ∧
      (s.halted = true → s.SameRecord u ∧ s.SameCursor u ∧ u.result = s.result ∧ s.SamePtl u) := by
    rintro u rfl
    simp [State.SameRecord, State.SameCursor, State.SamePtl]
  obtain ⟨rest, hd⟩ := step_does h
  cases hd with
  | idle hr => exact unchanged s rfl
  | illegal hr hd =>
    refine ⟨id, id, id, fun hh => ?_⟩
    rw [onlyInit hr hh, decode_initWord] at hd
    cases hd
  | @command w i t hn hr hd he =>
    have hi : i ≠ .init := by
      rintro rfl
      exact hinit (runsInit_of_command hn hr hd)
    obtain ⟨hp, ho, hv⟩ := exec_sticky hi he
    refine ⟨hp, ho, hv, fun hh => ?_⟩
    rw [onlyInit hr hh, decode_initWord] at hd
    cases hd
    exact absurd rfl hi
  | read v d => exact unchanged s rfl
  | write target v =>
    obtain ⟨hrec, hcur, hptl, hres, hpad, hovr⟩ := hostWrite_keeps target v (s.setInputs rest)
    have ⟨_, _, _, _, _, _, _, hcidv⟩ := hptl
    exact ⟨hpad.trans, hovr, hcidv.trans, fun _ => ⟨hrec, hcur, hres, hptl⟩⟩
  | reset level hin =>
    rw [resetInput_of_not_resets hin hreset]
    exact unchanged s rfl

end Sys2Proof.Machine
end

section
/-! What holds of every part of a command, once it holds of NextBit: a predicate on the state that NextBit keeps, without
a stop of the model, is kept by everything a command reads its bits with (R2, R10). -/
namespace Sys2Proof.Machine

/-- The part ends, with a value or a `raise`, in a state of which `P` holds. -/
def Res.Safe {α : Type} (P : State → Prop) : Res α → Prop
  | .ok _ t => P t
  | .raise _ t => P t
  | .stop _ => False

/-- From a state of which `P` holds the part ends in one of which `P` holds. -/
def Keeps {α : Type} (P : State → Prop) (f : State → Res α) : Prop := ∀ s, P s → (f s).Safe P

theorem Res.Safe.andThen {α β : Type} {P : State → Prop} {r : Res α} {f : α → State → Res β} (h : r.Safe P)
    (hf : ∀ a, Keeps P (f a)) : (r.andThen f).Safe P := by
  cases r with
  | ok a t => exact hf a t h
  | raise e t => exact h
  | stop x => exact h

theorem Keeps.andThen {α β : Type} {P : State → Prop} {f : State → Res α} {g : α → State → Res β} (hf : Keeps P f)
    (hg : ∀ a, Keeps P (g a)) : Keeps P fun s => (f s).andThen g :=
  fun s hs => (hf s hs).andThen hg

theorem Keeps.ok {α : Type} (P : State → Prop) (a : α) : Keeps P (Res.ok a) := fun _ hs => hs

theorem Keeps.raise {α : Type} (P : State → Prop) (e : Raise) : Keeps P (Res.raise e : State → Res α) := fun _ hs => hs

section
variable {P : State → Prop} (hP : Keeps P nextBit)
include hP

theorem readBits_keeps (n : Nat) : Keeps P (readBits n) := by
  induction n with
  | zero => exact .ok P 0
  | succ n ih =>
    rw [funext (readBits_succ n)]
    exact hP.andThen fun _ => ih.andThen fun _ => .ok P _

theorem readField_keeps (w : Nat) : Keeps P (readField w) := (readBits_keeps hP w).andThen fun _ => .ok P _

theorem readFields_keeps (w count : Nat) : Keeps P (readFields w count) := by
  induction count with
  | zero => exact .ok P []
  | succ count ih => exact (readField_keeps hP w).andThen fun _ => ih.andThen fun _ => .ok P _

theorem leadingZeros_keeps (left k : Nat) : Keeps P (leadingZeros left k) := by
  induction left generalizing k with
  | zero =>
    rw [funext (leadingZeros_eq 0 k)]
    refine hP.andThen fun b => ?_
    cases b
    · exact .raise P _
    · exact .ok P k
  | succ left ih =>
    rw [funext (leadingZeros_eq (left + 1) k)]
    refine hP.andThen fun b => ?_
    cases b
    · exact ih (k + 1)
    · exact .ok P k

theorem readUe_keeps : Keeps P readUe :=
  (leadingZeros_keeps hP kmax 0).andThen fun k => (readBits_keeps hP k).andThen fun _ => .ok P _

theorem readSubLayerFlags_keeps (m : Nat) : Keeps P (readSubLayerFlags m) := by
  induction m with
  | zero => exact .ok P []
  | succ m ih =>
    exact (readField_keeps hP 1).andThen fun _ => (readField_keeps hP 1).andThen fun _ => ih.andThen fun _ => .ok P _

theorem ite_readBits_keeps (p : Prop) [Decidable p] (n : Nat) : Keeps P fun s => if p then readBits n s else .ok 0 s := by
  split
  · exact readBits_keeps hP n
  · exact .ok P 0

theorem skipSubLayers_keeps (l : List (BitVec 1 × BitVec 1)) : Keeps P (skipSubLayers l) := by
  induction l with
  | nil => exact .ok P ()
  | cons p rest ih =>
    obtain ⟨pp, lp⟩ := p
    exact (ite_readBits_keeps hP (pp = 1) 88).andThen fun _ => (ite_readBits_keeps hP (lp = 1) 8).andThen fun _ => ih

theorem parsePtl_keeps (m : Nat) : Keeps P (parsePtl m) :=
  (readField_keeps hP 2).andThen fun _ => (readField_keeps hP 1).andThen fun _ =>
  (readField_keeps hP 5).andThen fun _ => (readFields_keeps hP 8 4).andThen fun _ =>
  (readFields_keeps hP 8 6).andThen fun _ => (readField_keeps hP 8).andThen fun _ =>
  (readSubLayerFlags_keeps hP m).andThen fun l => (ite_readBits_keeps hP (m ≠ 0) ((8 - m) * 2)).andThen fun _ =>
  (skipSubLayers_keeps hP l).andThen fun _ => .ok P _

end

/-- A command that ends safely answers a next state of which `P` holds, if its final writes and the fault keep `P`. -/
theorem finish_safe {α : Type} {P : State → Prop} {op : BitVec 4} {commit : α → State → State} {r : Res α} (h : r.Safe P)
    (hcommit : ∀ a s, P s → P (commit a s).complete) (hfault : ∀ e s, P s → P (s.faultEntry e op)) :
    ∃ t, finish op commit r = .next t ∧ P t := by
  cases r with
  | ok a t => exact ⟨_, rfl, hcommit a t h⟩
  | raise e t => exact ⟨_, rfl, hfault e t h⟩
  | stop x => exact h.elim

/-! ### The cursor's part of the invariant -/

/-- The part of the invariant that a command's reads of bits move: positions, cursor and count (R25, R27, R28, R94). -/
def State.CursorInv (s : State) : Prop := s.PositionLegal ∧ s.CursorLegal ∧ s.CountLegal

theorem setPadded_cursorInv {s : State} (h : s.CursorInv) : s.setPadded.CursorInv := by
  obtain ⟨hpos, hcur, hcount, -⟩ := h
  exact ⟨hpos, hcur, hcount, fun hp => by simp at hp⟩

/-- A raw byte below LEN taken: the history is in step with BYTEPOS (R28, R58). -/
theorem takeRaw_cursorInv {s : State} (b : Byte) (h : s.CursorInv) (hlt : s.bytepos.toNat < s.len.toNat) :
    (s.takeRaw b).CursorInv := by
  obtain ⟨⟨hlen, hpos⟩, ⟨hbits, hv, h1, h2⟩, hcount, hpad⟩ := h
  have pos := takeRaw_bytepos_toNat b s hlt
  have hvNext : (s.takeRaw b).hv.toNat = min (s.bytepos.toNat + 1) 2 := by
    simp only [State.takeRaw_hv, BitVec.toNat_ofNat]
    omega
  refine ⟨⟨hlen, ?_⟩, ⟨hbits, ?_, fun h0 => ?_, fun hlt2 => ?_⟩, hcount, fun hp => ?_⟩
  · rw [pos]
    exact hlt.trans_le hlen
  · rw [hvNext, pos]
  · rw [h0, BitVec.ofNat_eq_ofNat, BitVec.toNat_zero] at hvNext
    omega
  · refine h1 (BitVec.eq_of_toNat_eq ?_)
    rw [hvNext] at hlt2
    rw [hv, BitVec.ofNat_eq_ofNat, BitVec.toNat_zero]
    omega
  · have := hpad hp
    rw [pos, State.takeRaw_consumed, State.takeRaw_cacheBits]
    omega

/-- A whole byte in the cache: the bits it adds are a raw byte's, unless a pad byte was delivered (R94). -/
theorem fillCache_cursorInv {s : State} (b : Byte) (h : s.CursorInv) (hc : s.cacheBits = 0)
    (hp : s.padded = false → s.consumed.toNat + 8 ≤ 8 * s.bytepos.toNat) : (s.fillCache b).CursorInv := by
  obtain ⟨hpos, ⟨-, hcur⟩, hcount, -⟩ := h
  refine ⟨hpos, ⟨le_rfl, hcur⟩, fun hs => ?_, hp⟩
  have := hcount hs
  rw [hc] at this
  simpa using this

/-- A bit taken from a cache that is not empty (R61). -/
theorem countBit_cacheBits_toNat {s : State} (h : s.cacheBits ≠ 0) :
    s.countBit.cacheBits.toNat + 1 = s.cacheBits.toNat := by
  have hne : s.cacheBits.toNat ≠ 0 := fun h0 => h (BitVec.eq_of_toNat_eq h0)
  have one : (1 : BitVec 4).toNat = 1 := rfl
  have := s.cacheBits.isLt
  simp only [State.countBit_cacheBits, BitVec.toNat_sub, one]
  omega

/-- A bit counted leaves the sum of CONSUMED and CACHE_BITS, until CONSUMED saturates (R29, R61). -/
theorem countBit_cursorInv {s : State} (h : s.CursorInv) (hc : s.cacheBits ≠ 0) : s.countBit.CursorInv := by
  obtain ⟨hpos, ⟨hbits, hcur⟩, hcount, hpad⟩ := h
  have dec := countBit_cacheBits_toNat hc
  have cons : s.countBit.consumed.toNat = min (s.consumed.toNat + 1) 0xFFFFFFFF := satAdd_toNat _ _
  refine ⟨hpos, ⟨by omega, hcur⟩, fun hs => ?_, fun hp => ?_⟩
  · have hs' : s.countBit.consumed.toNat ≠ 0xFFFFFFFF := fun h => hs (BitVec.eq_of_toNat_eq h)
    have := hcount fun h => hs' (by rw [cons, h]; rfl)
    omega
  · have := hpad hp
    rw [cons, State.countBit_bytepos]
    omega

/-- FetchDelivered stays inside IBUF, and delivers a pad byte or moves BYTEPOS (R25, R50, R58). -/
theorem fetchLoop_cursorInv (left : Nat) (s : State) (h : s.CursorInv) (hl : left ≤ s.len.toNat - s.bytepos.toNat) :
    (∃ b t, fetchLoop left s = .ok b t ∧ t.CursorInv ∧
        (t.padded = false → s.bytepos.toNat < t.bytepos.toNat)) ∨
      ∃ e t, fetchLoop left s = .raise e t ∧ t.CursorInv := by
  induction left generalizing s with
  | zero =>
    rcases fetchPastEnd_cases s with ⟨-, hp⟩ | ⟨-, hp⟩
    · exact .inr ⟨_, s, hp, h⟩
    · exact .inl ⟨_, s.setPadded, hp, setPadded_cursorInv h, fun h => by simp at h⟩
  | succ left ih =>
    have key : ∀ (b : Byte) (s' : State), s'.CursorInv → s'.bytepos = s.bytepos → s'.len = s.len →
        memRead s.bytepos.toNat s = .ok b s' →
        (∃ b t, fetchLoop (left + 1) s = .ok b t ∧ t.CursorInv ∧
          (t.padded = false → s.bytepos.toNat < t.bytepos.toNat)) ∨
        ∃ e t, fetchLoop (left + 1) s = .raise e t ∧ t.CursorInv := by
      intro b s' hs hb hlen hr
      have hlt : s'.bytepos.toNat < s'.len.toNat := by
        rw [hb, hlen]
        omega
      have pos := takeRaw_bytepos_toNat b s' hlt
      have taken := takeRaw_cursorInv b hs hlt
      simp only [fetchLoop, hr, Res.ok_andThen]
      split
      · refine (ih (s'.takeRaw b) taken ?_).imp ?_ id
        · rw [pos, State.takeRaw_len, hb, hlen]
          omega
        · rintro ⟨c, t, hf, ht, hp⟩
          refine ⟨c, t, hf, ht, fun h => ?_⟩
          have := hp h
          rw [pos, hb] at this
          omega
      · refine .inl ⟨b, _, rfl, taken, fun _ => ?_⟩
        rw [pos, hb]
        omega
    have ⟨⟨hlen, _⟩, _⟩ := h
    rcases memRead_cases s.bytepos.toNat s with ⟨hout, -⟩ | ⟨-, b, -, hr⟩ | ⟨-, -, hr⟩
    · omega
    · exact key b s h rfl rfl hr
    · exact key _ s.draw h rfl rfl hr

/-- NextBit keeps the cursor's part of the invariant, and never stops the model. -/
theorem nextBit_cursorInv : Keeps State.CursorInv nextBit := by
  intro s h
  have fetched := fetchLoop_cursorInv _ s h le_rfl
  have frame := fetchDelivered_fetches s
  rcases nextBit_cases s with ⟨-, hn⟩ | ⟨-, hc, hn⟩ | ⟨-, hc, ⟨b, t, hd, hn⟩ | ⟨t, hd, -, hn⟩ | ⟨f, hd, -⟩⟩
  · rw [hn]
    exact h
  · rw [hn]
    exact countBit_cursorInv h hc
  · rw [hn]
    rw [hd] at frame
    rcases fetched with ⟨b', t', hd', ht, hp⟩ | ⟨e, t', hd', -⟩ <;> cases hd.symm.trans hd'
    refine countBit_cursorInv (fillCache_cursorInv b ht (frame.cacheBits.trans hc) fun hpad => ?_) (by simp)
    obtain ⟨-, -, -, hcount⟩ := h
    have := hcount (Bool.eq_false_iff.2 fun h => by simp [frame.padded h] at hpad)
    have := hp hpad
    rw [frame.sameConsumed]
    omega
  · rw [hn]
    rcases fetched with ⟨b', t', hd', -⟩ | ⟨e, t', hd', ht⟩ <;> cases hd.symm.trans hd'
    exact ht
  · rcases fetched with ⟨b', t', hd', -⟩ | ⟨e, t', hd', -⟩ <;> cases hd.symm.trans hd'

/-- Every command answers a next state whose cursor is legal (R25, R50, R94). -/
theorem exec_cursorInv (i : Instr) {s : State} (h : s.CursorInv) : ∃ t, exec i s = .next t ∧ t.CursorInv := by
  have fault : ∀ (op : BitVec 4) (e : Raise) (u : State), u.CursorInv → (u.faultEntry e op).CursorInv :=
    fun _ _ _ hu => hu
  cases i with
  | init =>
    obtain ⟨⟨hlen, -⟩, -⟩ := h
    exact ⟨_, rfl, ⟨hlen, Nat.zero_le _⟩, ⟨by simp, by simp, fun _ => rfl, fun _ => rfl⟩, by simp, by simp⟩
  | rdbits n => exact finish_safe (readBits_keeps nextBit_cursorInv _ s h) (fun _ _ hu => hu) (fault _)
  | skbits n => exact finish_safe (readBits_keeps nextBit_cursorInv _ s h) (fun _ _ hu => hu) (fault _)
  | rdue => exact finish_safe (readUe_keeps nextBit_cursorInv s h) (fun _ _ hu => hu) (fault _)
  | ptl m => exact finish_safe (parsePtl_keeps nextBit_cursorInv _ s h) (fun _ _ hu => hu) (fault _)

end Sys2Proof.Machine
end

section
/-! The invariant: it holds at reset (O58), every step keeps it (O59), and from it no step stops the model (O60). -/
namespace Sys2Proof.Machine

/-! ### What PTL commits -/

/-- What PTL parses holds six constraint bytes and a pair of flags per sub-layer (R107). -/
theorem parsePtl_lengths {m : Nat} {s t : State} {f : PtlFields} (h : parsePtl m s = .ok f t) :
    f.cons.length = 6 ∧ f.subLayers.length = m := by
  obtain ⟨ps, _, -, h⟩ := Res.andThen_eq_ok.1 h
  obtain ⟨tf, _, -, h⟩ := Res.andThen_eq_ok.1 h
  obtain ⟨idc, _, -, h⟩ := Res.andThen_eq_ok.1 h
  obtain ⟨compat, _, -, h⟩ := Res.andThen_eq_ok.1 h
  obtain ⟨cons, _, hcons, h⟩ := Res.andThen_eq_ok.1 h
  obtain ⟨lvl, _, -, h⟩ := Res.andThen_eq_ok.1 h
  obtain ⟨sub, _, hsub, h⟩ := Res.andThen_eq_ok.1 h
  obtain ⟨_, _, -, h⟩ := Res.andThen_eq_ok.1 h
  obtain ⟨_, _, -, h⟩ := Res.andThen_eq_ok.1 h
  cases h
  exact ⟨readFields_length hcons, readSubLayerFlags_length hsub⟩

/-- The bits of PTL_SUB: bit i is the profile flag of sub-layer i, bit 8 + i its level flag (R36). -/
theorem subWordFrom_getLsbD (l : List (BitVec 1 × BitVec 1)) (k i : Nat) (hi : i < 32) :
    (subWordFrom k l).getLsbD i =
      ((decide (k ≤ i) && (l.getD (i - k) (0, 0)).1.getLsbD 0) ||
        (decide (8 + k ≤ i) && (l.getD (i - (8 + k)) (0, 0)).2.getLsbD 0)) := by
  induction l generalizing k with
  | nil => simp [subWordFrom]
  | cons p rest ih =>
    obtain ⟨pp, lp⟩ := p
    have shifted : ∀ (b : BitVec 1) (f : BitVec 1 × BitVec 1 → BitVec 1) (n : Nat), f (pp, lp) = b →
        ((b.setWidth 32 <<< n).getLsbD i || (decide (n + 1 ≤ i) && (f (rest.getD (i - (n + 1)) (0, 0))).getLsbD 0)) =
          (decide (n ≤ i) && (f (((pp, lp) :: rest).getD (i - n) (0, 0))).getLsbD 0) := by
      intro b f n hb
      simp only [BitVec.getLsbD_shiftLeft, BitVec.getLsbD_setWidth]
      rcases Nat.lt_trichotomy i n with hlt | rfl | hgt
      · simp [hlt, Nat.not_le.2 hlt, Nat.not_le.2 (hlt.trans n.lt_succ_self)]
      · simp [hb, hi]
      · have e : i - n = i - (n + 1) + 1 := by omega
        simp [hgt, hgt.le, e]
    simp only [subWordFrom, BitVec.getLsbD_or, ih (k + 1), ← shifted pp Prod.fst k rfl,
      ← shifted lp Prod.snd (8 + k) rfl, Nat.add_assoc]
    grind

/-- Sub-layers that were not read have no flag in PTL_SUB, and no other bit is set (R36). -/
theorem subWordFrom_getLsbD_eq_false {l : List (BitVec 1 × BitVec 1)} {i : Nat} (hi : i < 32) (hl : l.length ≤ i)
    (h8 : i < 8 ∨ 8 + l.length ≤ i) : (subWordFrom 0 l).getLsbD i = false := by
  rw [subWordFrom_getLsbD l 0 i hi, Nat.sub_zero, List.getD_eq_default _ _ hl]
  rcases h8 with h | h
  · simp [Nat.not_le.2 h]
  · rw [List.getD_eq_default _ _ (by omega)]
    simp

/-- The fields of PTL_GEN, each at its place, and zeros above them (R32). -/
theorem gen_fields (m : BitVec 3) (f : PtlFields) :
    (f.gen m).extractLsb' 0 2 = f.ps ∧ (f.gen m).extractLsb' 2 1 = f.tf ∧ (f.gen m).extractLsb' 3 5 = f.idc ∧
    (f.gen m).extractLsb' 8 8 = f.lvl ∧ (f.gen m).extractLsb' 16 3 = m ∧ (f.gen m).extractLsb' 19 13 = 0 := by
  refine ⟨?_, ?_, ?_, ?_, ?_, ?_⟩ <;> grind [PtlFields.gen]

/-- Two bytes stand in PTL_CONS_HI, and zeros above them (R35). -/
theorem consHi_reserved (f : PtlFields) : f.consHi.extractLsb' 16 16 = 0 := by grind [PtlFields.consHi]

/-- What PTL commits has the reserved bits 0 and no flag of an absent sub-layer (R32, R35, R36). -/
theorem commitPtl_ptlLegal (m : BitVec 3) (f : PtlFields) (s : State) (hf : f.subLayers.length = m.toNat) :
    (s.commitPtl m f).PtlLegal := by
  obtain ⟨-, -, -, -, hm, hgen⟩ := gen_fields m f
  have sevenMore := m.isLt
  refine ⟨hgen, consHi_reserved f, ?_, ?_, fun i hi hle => ?_, fun h => by simp at h⟩
  · exact subWordFrom_getLsbD_eq_false (by decide) (by omega) (.inl (by decide))
  · apply BitVec.eq_of_getLsbD_eq
    intro i hi
    rw [BitVec.getLsbD_extractLsb', decide_eq_true hi, Bool.true_and, BitVec.ofNat_eq_ofNat, BitVec.getLsbD_zero]
    refine subWordFrom_getLsbD_eq_false ?_ ?_ (.inr ?_) <;> omega
  · rw [State.ptlM, State.commitPtl_ptlGen, hm] at hle
    exact ⟨subWordFrom_getLsbD_eq_false (by omega) (by omega) (.inl (by omega)),
      subWordFrom_getLsbD_eq_false (by omega) (by omega) (.inr (by omega))⟩

/-! ### The length of a codec-id -/

/-- Hex of a byte has one or two characters (R119). -/
theorem hex_byte_length_le (b : Byte) : (hex b.toNat).length ≤ 2 := digits_length_le 16 _ 1 _ b.isLt

/-- A constraint token is at most three characters long (R122). -/
theorem constraintTokens_length_le (cons : List Byte) : (constraintTokens cons).length ≤ 3 * cons.length := by
  have tokens : ∀ l : List Byte, (l.flatMap fun c => '.' :: hex c.toNat).length ≤ 3 * l.length := by
    intro l
    induction l with
    | nil => rfl
    | cons c l ih =>
      have := hex_byte_length_le c
      simp only [List.flatMap_cons, List.length_append, List.length_cons]
      omega
  have kept : (cons.reverse.dropWhile (· == 0)).length ≤ cons.length := by
    simpa using (List.dropWhile_sublist (l := cons.reverse) (· == 0)).length_le
  exact (tokens _).trans (Nat.mul_le_mul_left 3 kept)

/-- R121: a codec-id with six constraint bytes has 11 to 40 characters. -/
theorem formatCid_length_bounds (ps : BitVec 2) (tf : BitVec 1) (idc : BitVec 5) (compat : Word) (cons : List Byte)
    (lvl : Byte) (hc : cons.length = 6) :
    11 ≤ (formatCid ps tf idc compat cons lvl).length ∧ (formatCid ps tf idc compat cons lvl).length ≤ 40 := by
  have space : (spaceLetter ps).length ≤ 1 := by
    unfold spaceLetter
    split_ifs <;> simp
  have idcMin := List.length_pos_iff.2 (dec_ne_nil idc.toNat)
  have idcMax : (dec idc.toNat).length ≤ 2 := digits_length_le 10 _ 1 _ (idc.isLt.trans (by decide))
  have compatMin := List.length_pos_iff.2 (hex_ne_nil compat.toNat)
  have compatMax : (hex compat.toNat).length ≤ 8 := digits_length_le 16 _ 7 _ compat.isLt
  have lvlMin := List.length_pos_iff.2 (dec_ne_nil lvl.toNat)
  have lvlMax : (dec lvl.toNat).length ≤ 3 := digits_length_le 10 _ 2 _ (lvl.isLt.trans (by decide))
  have tokens := constraintTokens_length_le cons
  simp only [formatCid, List.length_append, List.length_cons, List.length_nil]
  omega

/-- What PTL commits to CIDLEN and the CID buffer (R37, R38, R121). -/
theorem commitPtl_cidLegal (m : BitVec 3) (f : PtlFields) (s : State) (hf : f.cons.length = 6) :
    (s.commitPtl m f).CidLegal := by
  obtain ⟨lo, hi⟩ : 11 ≤ f.codecId.length ∧ f.codecId.length ≤ 40 := formatCid_length_bounds _ _ _ _ _ _ hf
  have len : (s.commitPtl m f).cidlen.toNat = f.codecId.length := by
    simp only [State.commitPtl_cidlen, BitVec.toNat_ofNat]
    omega
  refine ⟨cidBytes_length _, fun h => by simp at h, fun _ => by omega, fun j hj hle => ?_⟩
  rw [State.commitPtl_cid, cidBytes_getD _ _ hj, List.getD_eq_default _ _ (by simpa using len ▸ hle)]

/-- Every command but INIT keeps the PTL registers and the codec-id legal. -/
theorem exec_ptlLegal {i : Instr} {s t : State} (hi : i ≠ .init) (h : exec i s = .next t) (hp : s.PtlLegal)
    (hc : s.CidLegal) : t.PtlLegal ∧ t.CidLegal := by
  have unchanged : s.SamePtl t → t.PtlLegal ∧ t.CidLegal := by
    rintro ⟨hgen, hcompat, hlo, hhi, hsub, hlen, hcid, hv⟩
    unfold State.PtlLegal State.CidLegal State.ptlM
    rw [hgen, hcompat, hlo, hhi, hsub, hlen, hcid, hv]
    exact ⟨hp, hc⟩
  obtain ⟨-, -, -, -, same, -⟩ := commandFrame i s t hi h
  cases i with
  | ptl m =>
    have moved := parsePtl_moves (subLayerOperand m) s
    rcases finish_cases (Instr.ptl m).op (State.commitPtl m) (parsePtl (subLayerOperand m) s) with
      ⟨f, u, hr, hf⟩ | ⟨e, u, hr, hf⟩ | ⟨f, -, hf⟩ <;> rw [exec, execPtl, hf] at h <;> cases h
    · obtain ⟨hcons, hsub⟩ := parsePtl_lengths hr
      exact ⟨commitPtl_ptlLegal m f u hsub, commitPtl_cidLegal m f u hcons⟩
    · rw [hr] at moved
      exact unchanged moved.samePtl
  | _ => exact unchanged (same (by simp [Instr.op]))

/-! ### The fault record -/

/-- A fault leaves a legal record if the command's OP can raise the error (R125, R128). -/
theorem faultEntry_recordLegal (e : Raise) (op : BitVec 4) (s : State)
    (hexhausted : e.code = .bufferExhausted → op = 2 ∨ op = 3 ∨ op = 4 ∨ op = 5)
    (hmalformed : e.code = .malformedExpGolombCode → op = 4) : (s.faultEntry e op).RecordLegal := by
  refine ⟨?_, fun h => by simp at h, fun _ => rfl, ?_, hexhausted, hmalformed⟩ <;> cases e <;>
    simp [Raise.code, Raise.kind]

/-- A command run while not halted leaves a legal record (R125). -/
theorem exec_recordLegal {i : Instr} {s t : State} (hi : i ≠ .init) (h : exec i s = .next t) (hh : s.halted = false)
    (hrec : s.RecordLegal) : t.RecordLegal := by
  rcases exec_cases h with ⟨h, -⟩ | ⟨-, u, hu, ⟨w, hc, rfl⟩ | ⟨e, he, rfl⟩⟩
  · exact absurd h hi
  · obtain ⟨hhalt, herr, hop, hkind, hpos⟩ : s.SameRecord w.complete := by cases hc <;> exact hu.sameRecord
    obtain ⟨hnone, hzero, -, hbudget, hexhausted, hmalformed⟩ := hrec
    unfold State.RecordLegal
    rw [hhalt, herr, hop, hkind, hpos]
    exact ⟨hnone, hzero, fun h => by simp [hh] at h, hbudget, hexhausted, hmalformed⟩
  · have hop : i.op = 2 ∨ i.op = 3 ∨ i.op = 4 ∨ i.op = 5 := by cases i <;> simp_all [Instr.op]
    refine faultEntry_recordLegal e i.op u (fun _ => hop) fun hm => ?_
    rcases he with (⟨rfl, -⟩ | ⟨rfl, -⟩) | ⟨-, rfl⟩
    · cases hm
    · cases hm
    · rfl

/-! ### Steps that keep the invariant -/

/-- The invariant says nothing of the inputs, of `rdata` and of the draw counter. -/
theorem inv_border {s : State} (h : s.Inv) (rest : List Input) (v : Word) (d : Nat) :
    { s with inputs := rest, rdata := v, draws := d }.Inv := by
  obtain ⟨hpar, hbuf, hpos, hcur, hcount, hrec, hhalt, hptl, hcid, hreset⟩ := h
  refine ⟨hpar, hbuf, hpos, hcur, hcount, hrec, hhalt, hptl, hcid, fun hr => ?_⟩
  exact congrArg (fun u : State => { u with inputs := rest, rdata := v, draws := d }) (hreset hr)

/-- Reset values have the invariant (R145). -/
theorem applyReset_inv {s : State} (level : Bool) (h : s.ParameterLegal) : (s.applyReset level).Inv := by
  have hptl : (s.applyReset level).PtlLegal := by simp [State.PtlLegal]
  have hcid : (s.applyReset level).CidLegal :=
    ⟨rfl, fun _ => rfl, fun h => by simp at h, fun j _ _ => applyReset_cid_getD level s j⟩
  refine ⟨h, ⟨Memory.wf_nil, by simp⟩, ⟨by simp, by simp⟩, by simp [State.CursorLegal], by simp [State.CountLegal],
    by simp [State.RecordLegal], fun _ => .inl rfl, hptl, hcid, fun hr => ?_⟩
  have hl : level = true := hr
  rw [hl]
  rfl

/-- Settles O58: the state after reset is what reset makes of it. -/
theorem invariantHoldsAtReset : Obligations.InvariantHoldsAtReset := by
  unfold Obligations.InvariantHoldsAtReset
  rw [← State.applyReset_reset]
  exact applyReset_inv false State.reset_parameterLegal

/-- While `rst` is asserted no command is accepted (R145). -/
theorem rst_eq_false_of_running {s : State} (h : s.ResetLegal) {w : Word} (hr : s.running = some w) : s.rst = false := by
  refine Bool.eq_false_iff.2 fun hrst => ?_
  rw [h hrst] at hr
  cases hr

/-- The engine does not write IBUF (R50). -/
theorem exec_mem {i : Instr} {s t : State} (hi : i ≠ .init) (h : exec i s = .next t) : t.mem = s.mem := by
  rcases exec_cases h with ⟨h, -⟩ | ⟨-, u, hu, ⟨w, hc, rfl⟩ | ⟨e, -, rfl⟩⟩
  · exact absurd h hi
  · cases hc <;> exact hu.mem
  · exact hu.mem

/-- The engine's run of an accepted command keeps the invariant. -/
theorem exec_inv {i : Instr} {s t : State} {w : Word} (hr : s.running = some w) (hd : decode w = .ok i) (h : s.Inv)
    (he : exec i s = .next t) : t.Inv := by
  obtain ⟨hpar, hbuf, hpos, hcur, hcount, hrec, hhalt, hptl, hcid, hreset⟩ := h
  have hrst := rst_eq_false_of_running hreset hr
  obtain ⟨u, hu, hposT, hcurT, hcountT⟩ := exec_cursorInv i (s := s) ⟨hpos, hcur, hcount⟩
  cases hu.symm.trans he
  by_cases hi : i = .init
  · subst hi
    cases he
    obtain ⟨-, -, -, -, -, hrecT, -, hptlT, hcidT, -⟩ := applyReset_inv false hpar
    exact ⟨hpar, hbuf, hposT, hcurT, hcountT, hrecT, fun _ => .inl rfl, hptlT, hcidT, fun h => by simp [hrst] at h⟩
  · have hh : s.halted = false := by
      refine Bool.eq_false_iff.2 fun hh => hi ?_
      have hw : w = 0x00000001 := by simpa [hr] using hhalt hh
      rw [hw, decode_initWord] at hd
      exact (Except.ok.inj hd).symm
    have hmem := exec_mem hi he
    obtain ⟨⟨-, hbytes, -, -, -, hrstT, -⟩, -, hrun, -⟩ := commandFrame i s t hi he
    obtain ⟨hptlT, hcidT⟩ := exec_ptlLegal hi he hptl hcid
    refine ⟨?_, ?_, hposT, hcurT, hcountT, exec_recordLegal hi he hh hrec, fun _ => .inl hrun, hptlT, hcidT, ?_⟩
    · rw [State.ParameterLegal, hbytes]
      exact hpar
    · rw [State.IbufLegal, hmem, hbytes]
      exact hbuf
    · intro hT
      rw [hrstT, hrst] at hT
      cases hT

/-- A byte written to IBUF lies inside it (R52). -/
theorem writeByte_ibufLegal (a : Nat) (v : Byte) {s : State} (h : s.IbufLegal) : (writeByte a v s).IbufLegal := by
  obtain ⟨hwf, hin⟩ := h
  unfold writeByte
  split
  · refine ⟨Memory.wf_write _ _ _ hwf, fun c hc => ?_⟩
    rcases Memory.mem_write hc with rfl | hc
    · assumption
    · exact hin c hc
  · exact ⟨hwf, hin⟩

/-- A host write keeps the invariant. -/
theorem hostWrite_inv (target : Target) (v : Word) {s : State} (h : s.Inv) : (hostWrite target v s).Inv := by
  have ⟨hpar, hbuf, hpos, hcur, hcount, hrec, hhalt, hptl, hcid, _⟩ := h
  rcases hostWrite_cases target v s with hw | ⟨hr, -, -, hw⟩ | ⟨hr, -, -, hw⟩ | ⟨hr, -, -, hw⟩ | ⟨hr, -, -, hv, hw⟩ |
    ⟨hr, -, j, -, hw⟩ <;> rw [hw]
  · exact h
  · exact ⟨hpar, hbuf, hpos, hcur, hcount, hrec, hhalt, hptl, hcid, fun h => by simp [hr] at h⟩
  · exact ⟨hpar, hbuf, hpos, hcur, hcount, hrec, hhalt, hptl, hcid, fun h => by simp [hr] at h⟩
  · obtain ⟨-, hbytepos⟩ := hpos
    have hlen : (s.writeLen v).len.toNat ≤ s.ibufBytes := by
      simp only [State.writeLen_len, BitVec.toNat_ofNat]
      exact (Nat.mod_le _ _).trans (Nat.min_le_right _ _)
    exact ⟨hpar, hbuf, ⟨hlen, hbytepos⟩, hcur, hcount, hrec, hhalt, hptl, hcid, fun h => by simp [hr] at h⟩
  · have hrun : s.halted = true → some v = none ∨ some v = some 0x00000001 := fun hh => by
      rcases hv with hv | rfl
      · simp [hh] at hv
      · exact .inr rfl
    exact ⟨hpar, hbuf, hpos, hcur, hcount, hrec, hrun, hptl, hcid, fun h => by simp [hr] at h⟩
  · have hbufT : (writeIbufWord j v s).IbufLegal :=
      writeByte_ibufLegal _ _ (writeByte_ibufLegal _ _ (writeByte_ibufLegal _ _ (writeByte_ibufLegal _ _ hbuf)))
    rw [writeIbufWord_keeps] at hbufT ⊢
    exact ⟨hpar, hbufT, hpos, hcur, hcount, hrec, hhalt, hptl, hcid, fun h => by simp [hr] at h⟩

/-- Settles O59: by what the step did; the engine's commands by `exec_inv`, host writes by `hostWrite_inv`. -/
theorem everyStepKeepsTheInvariant : Obligations.EveryStepKeepsTheInvariant := by
  intro s t hs h
  obtain ⟨rest, hd⟩ := step_does h
  have taken : (s.setInputs rest).Inv := inv_border hs rest s.rdata s.draws
  cases hd with
  | idle hr => exact taken
  | @illegal w e hr hd =>
    obtain ⟨hpar, hbuf, hpos, hcur, hcount, -, -, hptl, hcid, hreset⟩ := taken
    have hrst := rst_eq_false_of_running hreset (w := w) hr
    have hrec := faultEntry_recordLegal .illegalCommand (opField w) (s.setInputs rest) (by simp [Raise.code])
      (by simp [Raise.code])
    exact ⟨hpar, hbuf, hpos, hcur, hcount, hrec, fun _ => .inl rfl, hptl, hcid,
      fun h => by simp [show s.rst = false from hrst] at h⟩
  | command hn hr hd he => exact exec_inv (s := s.setInputs rest) hr hd taken he
  | read v d => exact inv_border hs rest v d
  | write target v => exact hostWrite_inv target v taken
  | reset level hin =>
    unfold resetInput
    split
    · obtain ⟨hpar, -⟩ := hs
      exact applyReset_inv level hpar
    · exact taken

/-- Settles O60: only the engine can stop the model, and from a legal cursor its commands answer a next state. -/
theorem noStepFaultsFromTheInvariant : Obligations.NoStepFaultsFromTheInvariant := by
  intro s f ⟨_, _, hpos, hcur, hcount, _⟩ h
  have engine : ∀ u : State, u.CursorInv → engineTurn u ≠ .fault f := by
    intro u hu he
    rcases engineTurn_cases u with ⟨-, ht⟩ | ⟨w, e, -, -, ht⟩ | ⟨w, i, -, -, ht⟩ <;> rw [ht] at he
    · cases he
    · cases he
    · obtain ⟨t, hx, -⟩ := exec_cursorInv i hu
      cases hx.symm.trans he
  rcases step_cases s with ⟨-, hs⟩ | ⟨rest, -, hs⟩ | ⟨a, rest, -, hs⟩ | ⟨level, rest, -, hs⟩ <;> rw [hs] at h
  · exact engine s ⟨hpos, hcur, hcount⟩ h
  · exact engine (s.setInputs rest) ⟨hpos, hcur, hcount⟩ h
  · rcases hostAccess_cases a (s.setInputs rest) with ⟨r, ha⟩ | ⟨o, -, ha⟩ | ⟨o, v, -, ha⟩ <;> rw [ha] at h <;> cases h
  · cases h

end Sys2Proof.Machine
end

section
/-! What the host's accesses read and write: the register map (O43, O47, O48, O49), IBUF's words (O45, O46) and the
`rst` input (O53). -/
namespace Sys2Proof.Machine

/-! ### An aligned 32-bit access is made -/

theorem aligned_low_bits {o : Offset} (h : o.toNat % 4 = 0) : o.extractLsb' 0 2 = 0 := by
  apply BitVec.eq_of_toNat_eq
  simpa using h

theorem step_read {s : State} {o : Offset} {rest : List Input} (hin : s.inputs = .access (.read 32 o) :: rest)
    (ho : o.toNat % 4 = 0) : step s = .next (hostRead (targetOf s.ibufBytes o) (s.setInputs rest)) := by
  simp [step, hin, takeInput, hostAccess, aligned_low_bits ho]

theorem step_write {s : State} {o : Offset} {v : Word} {rest : List Input}
    (hin : s.inputs = .access (.write 32 o v) :: rest) (ho : o.toNat % 4 = 0) :
    step s = .next (hostWrite (targetOf s.ibufBytes o) v (s.setInputs rest)) := by
  simp [step, hin, takeInput, hostAccess, aligned_low_bits ho]

/-- A write made while idle goes to the target its offset names (R14). -/
theorem step_write_idle {s : State} {o : Offset} {v : Word} {rest : List Input} (hr : s.running = none)
    (hrst : s.rst = false) (hin : s.inputs = .access (.write 32 o v) :: rest) (ho : o.toNat % 4 = 0) :
    step s = .next (writeTarget (targetOf s.ibufBytes o) v (s.setInputs rest)) := by
  simp [step_write hin ho, hostWrite, State.busy, hr, hrst]

/-- A read made while idle returns what the target its offset names holds (R14). -/
theorem step_read_idle {s : State} {o : Offset} {rest : List Input} (hr : s.running = none)
    (hin : s.inputs = .access (.read 32 o) :: rest) (ho : o.toNat % 4 = 0) :
    step s = .next ((readTarget (targetOf s.ibufBytes o) (s.setInputs rest)).2.returnWord
      (readTarget (targetOf s.ibufBytes o) (s.setInputs rest)).1) := by
  simp [step_read hin ho, hostRead, State.busy, hr]

/-! ### Registers -/

/-- Settles O43. -/
theorem ctrlWriteTakesItsTwoBits : Obligations.CtrlWriteTakesItsTwoBits := by
  intro s v rest hr hrst hin
  rw [step_write_idle hr hrst hin (by decide)]
  rfl

/-- Settles O49: by whether the block is halted and the word is INIT's. -/
theorem cmdWriteIsAcceptedOrDroppedWhileHalted : Obligations.CmdWriteIsAcceptedOrDroppedWhileHalted := by
  intro s w rest hr hrst hin
  have issued : step s = .next (issueCommand w (s.setInputs rest)) := by
    rw [step_write_idle hr hrst hin (by decide)]
    rfl
  rw [issued]
  refine ⟨fun h => ?accepted, fun hh hw => ?dropped⟩
  case accepted =>
    have hd : (s.halted && w != 0x00000001) = false := by rcases h with h | h <;> simp [h]
    exact congrArg Host.Outcome.next (if_neg (Bool.eq_false_iff.1 hd))
  case dropped =>
    have hd : (s.halted && w != 0x00000001) = true := by
      rw [hh, Bool.true_and, bne_iff_ne]
      exact hw
    exact congrArg Host.Outcome.next (if_pos hd)

/-- Settles O53: `applyReset` writes what `State.reset` holds, but for the parameter, the bus and the draw counter. -/
theorem resetInputGivesTheResetValues : Obligations.ResetInputGivesTheResetValues := by
  intro s level rest hin hl
  have taken : (level || (s.setInputs rest).rst) = true := by rcases hl with h | h <;> simp [h]
  simp only [step, hin, takeInput, resetInput, taken, if_true]
  rfl

/-- The value of two fields put together. -/
theorem toNat_append_eq {v w : Nat} (x : BitVec v) (y : BitVec w) : (x ++ y).toNat = 2 ^ w * x.toNat + y.toNat := by
  rw [BitVec.toNat_append, Nat.shiftLeft_eq, Nat.mul_comm, Nat.two_pow_add_eq_or_of_lt y.isLt]

/-- Four bytes of a word, by value (R53). -/
theorem packWord_toNat (b0 b1 b2 b3 : Byte) :
    (packWord b0 b1 b2 b3).toNat = b0.toNat + 2 ^ 8 * b1.toNat + 2 ^ 16 * b2.toNat + 2 ^ 24 * b3.toNat := by
  have h : (packWord b0 b1 b2 b3).toNat = _ := toNat_append_eq (b3 ++ b2 ++ b1) b0
  simp only [h, toNat_append_eq]
  omega

theorem ctrlWord_toNat (s : State) : (ctrlWord s).toNat = s.strict.toNat + 2 * s.budget.toNat := by
  have h : (ctrlWord s).toNat = _ := toNat_append_eq (0#30 ++ BitVec.ofBool s.budget) (BitVec.ofBool s.strict)
  simp only [h, toNat_append_eq, BitVec.toNat_zero, BitVec.toNat_ofBool]
  omega

theorem statusWord_toNat (s : State) :
    (statusWord s).toNat = s.busy.toNat + 2 * s.halted.toNat + 16 * s.err.code.toNat + 256 * s.padded.toNat
      + 512 * s.ovr.toNat + 1024 * s.cidv.toNat := by
  have h : (statusWord s).toNat = _ :=
    toNat_append_eq (0#21 ++ BitVec.ofBool s.cidv ++ BitVec.ofBool s.ovr ++ BitVec.ofBool s.padded ++ s.err.code ++ 0#2
      ++ BitVec.ofBool s.halted) (BitVec.ofBool s.busy)
  simp only [h, toNat_append_eq, BitVec.toNat_zero, BitVec.toNat_ofBool]
  omega

theorem cursorWord_toNat (s : State) :
    (cursorWord s).toNat = s.cache.toNat + 2 ^ 8 * s.cacheBits.toNat + 2 ^ 12 * s.hv.toNat + 2 ^ 16 * s.h1.toNat
      + 2 ^ 24 * s.h2.toNat := by
  have h : (cursorWord s).toNat = _ := toNat_append_eq (s.h2 ++ s.h1 ++ 0#2 ++ s.hv ++ s.cacheBits) s.cache
  simp only [h, toNat_append_eq, BitVec.toNat_zero]
  omega

theorem errInfoWord_toNat (s : State) : (errInfoWord s).toNat = s.errOp.toNat + 16 * s.errKind.toNat := by
  have h : (errInfoWord s).toNat = _ := toNat_append_eq (0#27 ++ BitVec.ofBool s.errKind) s.errOp
  simp only [h, toNat_append_eq, BitVec.toNat_zero, BitVec.toNat_ofBool]
  omega

/-- The offsets of the CID buffer's words (R38). -/
theorem targetAt_cid (ibufBytes : Nat) {w : Nat} (hw : w < 10) : targetAt ibufBytes (0x080 + 4 * w) = .cid w := by
  rw [targetAt]
  iterate 18 rw [if_neg (by omega)]
  rw [if_pos (by omega), Nat.add_sub_cancel_left, Nat.mul_div_cancel_left w (by decide)]

/-- What the register map lists for an offset is what a read of the offset returns (R14-R38). -/
theorem readTarget_registerMap {s : State} (hr : s.running = none) (ibufBytes : Nat) :
    ∀ r ∈ registerMap s, r.1 < 0x10000 ∧ r.1 % 4 = 0 ∧ (readTarget (targetAt ibufBytes r.1) s).1.toNat = r.2 := by
  refine List.forall_mem_append.2 ⟨?namedRegisters, ?cidWords⟩
  case namedRegisters =>
    have hstatus := statusWord_toNat s
    simp only [State.busy, hr, Option.isSome_none, Bool.toNat_false, Nat.zero_add] at hstatus
    have hlo : (s.result.extractLsb' 0 32).toNat = s.result.toNat % 2 ^ 32 := by simp
    have hhi : (s.result.extractLsb' 32 32).toNat = s.result.toNat / 2 ^ 32 := by
      have := s.result.isLt
      rw [BitVec.extractLsb'_toNat, Nat.shiftRight_eq_div_pow]
      omega
    have widened : ∀ {w : Nat} (x : BitVec w), w ≤ 32 → (x.setWidth 32).toNat = x.toNat := fun _ hw =>
      BitVec.toNat_setWidth_of_le hw
    simp only [List.forall_mem_cons, Nat.reduceLT, Nat.reduceMod, true_and]
    exact ⟨rfl, ctrlWord_toNat s, hstatus, rfl, widened s.len (by decide), hlo, hhi, widened s.bytepos (by decide),
      cursorWord_toNat s, rfl, errInfoWord_toNat s, rfl, rfl, rfl, rfl, rfl, rfl, widened s.cidlen (by decide),
      List.forall_mem_nil _⟩
  case cidWords =>
    intro r hm
    obtain ⟨w, hw, rfl⟩ := List.mem_map.1 hm
    have hw := List.mem_range.1 hw
    refine ⟨by show 0x080 + 4 * w < 0x10000; omega, by show (0x080 + 4 * w) % 4 = 0; omega, ?_⟩
    rw [targetAt_cid ibufBytes hw]
    exact packWord_toNat ..

/-- What a target that a write can change says of the offset that names it (R14). -/
def Target.OffsetOf (ibufBytes a : Nat) : Target → Prop
  | .ctrl => a = 0x004
  | .cmd => a = 0x00C
  | .len => a = 0x010
  | .ibuf _ => 0x10000 ≤ a ∧ a - 0x10000 < ibufBytes
  | _ => True

theorem targetAt_offsetOf (ibufBytes a : Nat) : (targetAt ibufBytes a).OffsetOf ibufBytes a := by
  unfold targetAt
  iterate 19 refine iteInduction (fun h => by trivial) fun _ => ?_
  exact iteInduction (fun h => h) fun _ => trivial

theorem targetOf_eq {ibufBytes : Nat} {a : Offset} {t : Target} (h : targetOf ibufBytes a = t) :
    t.OffsetOf ibufBytes a.toNat :=
  h ▸ targetAt_offsetOf ibufBytes a.toNat

/-- Settles O47. -/
theorem idleReadsFollowTheRegisterMap : Obligations.IdleReadsFollowTheRegisterMap := by
  intro s rest hr r hm hin
  obtain ⟨hlt, hal, hread⟩ := readTarget_registerMap (s := s.setInputs rest) hr s.ibufBytes r hm
  have hn : (BitVec.ofNat 17 r.1).toNat = r.1 := by
    rw [BitVec.toNat_ofNat]
    omega
  have named : (targetOf s.ibufBytes (BitVec.ofNat 17 r.1)) = targetAt s.ibufBytes r.1 := by rw [targetOf, hn]
  rw [step_read hin (by rw [hn]; exact hal), hostRead_idle_register, named, ← hread, BitVec.ofNat_toNat,
    BitVec.setWidth_eq]
  · rfl
  · simp [State.busy, hr]
  · intro j hj
    have ⟨himem, _⟩ := targetOf_eq hj
    omega

/-- A reserved offset names nothing (R14, R66). -/
theorem targetOf_reserved {ibufBytes : Nat} {a : Offset} (h : reservedOffset ibufBytes a) :
    targetOf ibufBytes a = .reserved := by
  unfold targetOf targetAt
  rcases h with h | h | h <;> iterate 20 rw [if_neg (by omega)]

/-- A write to what is neither CTRL, CMD, LEN nor an IBUF word changes nothing, at any time (R14, R66). -/
theorem hostWrite_readOnly {t : Target} (v : Word) (s : State)
    (h : t ≠ .ctrl ∧ t ≠ .cmd ∧ t ≠ .len ∧ ∀ j, t ≠ .ibuf j) : hostWrite t v s = s := by
  obtain ⟨hctrl, hcmd, hlen, hibuf⟩ := h
  rcases hostWrite_cases t v s with hw | ⟨-, -, ht, -⟩ | ⟨-, -, ht, -⟩ | ⟨-, -, ht, -⟩ | ⟨-, -, ht, -⟩ |
    ⟨-, -, j, ht, -⟩
  · exact hw
  · exact absurd ht hcmd
  · exact absurd ht hctrl
  · exact absurd ht hlen
  · exact absurd ht hcmd
  · exact absurd ht (hibuf j)

/-- Settles O48. -/
theorem reservedAndReadOnlyOffsetsIgnoreWrites : Obligations.ReservedAndReadOnlyOffsetsIgnoreWrites := by
  intro s a v rest hal
  refine ⟨fun hres hin => ?read, fun hoff hin => ?write⟩
  case read =>
    rw [step_read hin hal, targetOf_reserved hres]
    unfold hostRead
    split_ifs <;> rfl
  case write =>
    rw [step_write hin hal, hostWrite_readOnly]
    · rfl
    · unfold reservedOffset at hoff
      refine ⟨fun h => ?_, fun h => ?_, fun h => ?_, fun j h => ?_⟩
      · have : Target.OffsetOf s.ibufBytes a.toNat (.ctrl) := targetOf_eq h
        simp only [Target.OffsetOf] at this
        omega
      · have : Target.OffsetOf s.ibufBytes a.toNat (.cmd) := targetOf_eq h
        simp only [Target.OffsetOf] at this
        omega
      · have : Target.OffsetOf s.ibufBytes a.toNat (.len) := targetOf_eq h
        simp only [Target.OffsetOf] at this
        omega
      · have : Target.OffsetOf s.ibufBytes a.toNat (.ibuf j) := targetOf_eq h
        simp only [Target.OffsetOf] at this
        omega

/-! ### IBUF words -/

theorem ibufOffset_aligned (j : Nat) : (ibufOffset j).toNat % 4 = 0 := by
  simp only [ibufOffset, BitVec.toNat_ofNat]
  omega

@[simp] theorem writeByte_ibufBytes (a : Nat) (v : Byte) (s : State) : (writeByte a v s).ibufBytes = s.ibufBytes := by
  unfold writeByte
  split <;> rfl

/-- IBUF after a word was written: the word's bytes inside IBUF are new, all others are as they were (R52). -/
theorem writeIbufWord_read (j : Nat) (v : Word) (s : State) (i : Nat) :
    (writeIbufWord j v s).mem.read i =
      if 4 * j ≤ i ∧ i < 4 * j + 4 ∧ i < s.ibufBytes then some (v.extractLsb' (8 * (i - 4 * j)) 8)
      else s.mem.read i := by
  simp only [writeIbufWord, writeByte_read, writeByte_ibufBytes]
  by_cases hin : 4 * j ≤ i ∧ i < 4 * j + 4
  · obtain ⟨k, rfl⟩ := Nat.exists_eq_add_of_le hin.1
    have hk : k < 4 := by omega
    interval_cases k <;> simp
  · have h0 : i ≠ 4 * j ∧ i ≠ 4 * j + 1 ∧ i ≠ 4 * j + 2 ∧ i ≠ 4 * j + 3 := by omega
    have h1 : ¬(4 * j ≤ i ∧ i < 4 * j + 4 ∧ i < s.ibufBytes) := fun h => hin ⟨h.1, h.2.1⟩
    simp [h0, h1]

/-- Settles O45. -/
theorem ibufWriteSetsItsBytes : Obligations.IbufWriteSetsItsBytes := by
  intro s j v rest ⟨_, hi⟩ hr hrst hj hin
  have written : step s = .next (writeIbufWord j v (s.setInputs rest)) := by
    rw [step_write_idle hr hrst hin (ibufOffset_aligned j), ibufOffset, targetOf_ibuf _ _ hi hj]
    rfl
  refine ⟨_, written, fun k hk hin => ?_, fun a ha => ?_, writeIbufWord_keeps ..⟩
  · rw [writeIbufWord_read, if_pos ⟨by omega, by omega, hin⟩, Nat.add_sub_cancel_left]
  · rw [writeIbufWord_read, if_neg (by simp only [State.setInputs_ibufBytes]; omega)]
    rfl

/-- Byte `k` of IBUF word `j` as an idle read observes it: the byte written, a free value where none was, 0 beyond IBUF
(R39, R49). -/
def State.observedByte (s : State) (j k : Nat) : Byte :=
  if 4 * j + k < s.ibufBytes then
    (s.mem.read (4 * j + k)).getD (Config.freeByte (s.draws + s.unwrittenBefore j k))
  else 0

/-- The read's byte `k`, after the bytes before it took their draws. -/
theorem hostByte_observed (s : State) (j k : Nat) :
    hostByte (4 * j + k) { s with draws := s.draws + s.unwrittenBefore j k } =
      (s.observedByte j k, { s with draws := s.draws + s.unwrittenBefore j (k + 1) }) := by
  rw [unwrittenBefore_succ]
  unfold hostByte State.observedByte
  by_cases hin : 4 * j + k < s.ibufBytes
  · cases hm : s.mem.read (4 * j + k) <;> simp [hin, hm, observeByte, State.draw, Nat.add_assoc]
  · simp [hin]

/-- An idle read of an IBUF word: its four bytes in order, each unwritten one a draw (R39, R49, R52, R53). -/
theorem ibufWord_observed (j : Nat) (s : State) :
    ibufWord j s =
      (packWord (s.observedByte j 0) (s.observedByte j 1) (s.observedByte j 2) (s.observedByte j 3),
        { s with draws := s.draws + s.unwrittenBefore j 4 }) := by
  have h0 : hostByte (4 * j) s = _ := hostByte_observed s j 0
  simp only [ibufWord, h0, hostByte_observed]

/-- The bytes of a word put together from its bytes (R53). -/
theorem packWord_extract (b : Nat → Byte) {k : Nat} (hk : k < 4) :
    (packWord (b 0) (b 1) (b 2) (b 3)).extractLsb' (8 * k) 8 = b k := by
  interval_cases k <;> grind [packWord]

/-- Settles O46: by the four observed bytes; where all of them were written nothing is drawn. -/
theorem ibufReadReturnsItsBytes : Obligations.IbufReadReturnsItsBytes := by
  intro s j rest ⟨_, hi⟩ hr hj hin
  have observed : step s = .next { s with
      inputs := rest
      rdata := packWord (s.observedByte j 0) (s.observedByte j 1) (s.observedByte j 2) (s.observedByte j 3)
      draws := s.draws + s.unwrittenBefore j 4 } := by
    rw [step_read_idle hr hin (ibufOffset_aligned j), ibufOffset, targetOf_ibuf _ _ hi hj, readTarget, ibufWord_observed]
    rfl
  refine ⟨fun b hb => ?written, _, observed, rfl, fun k hk => packWord_extract (s.observedByte j) hk⟩
  have byte : ∀ k < 4, s.observedByte j k = b k ∧ s.unwrittenBefore j (k + 1) = s.unwrittenBefore j k := by
    intro k hk
    have := hb k hk
    rw [unwrittenBefore_succ, State.observedByte]
    split at this <;> simp_all
  obtain ⟨⟨h0, n0⟩, ⟨h1, n1⟩, ⟨h2, n2⟩, h3, n3⟩ :=
    And.intro (byte 0 (by decide)) (And.intro (byte 1 (by decide)) (And.intro (byte 2 (by decide)) (byte 3 (by decide))))
  rw [observed, h0, h1, h2, h3, n3, n2, n1, n0, unwrittenBefore_zero]
  rfl

end Sys2Proof.Machine
end

section
/-! How reads of bits follow the logical stream: FetchDelivered against `unescape`, then one bit and n bits against
`State.Advanced`, over a readable buffer (R54, R56, R58, R61, R94). -/
namespace Sys2Proof.Machine

/-! ### Unescaping in parts -/

/-- The raw history, the byte before the last one first, after the raw bytes `l` (R28, R58). -/
def historyOf : Option Byte → Option Byte → List Byte → Option Byte × Option Byte
  | h2, h1, [] => (h2, h1)
  | _, h1, b :: rest => historyOf h1 (some b) rest

/-- Raw bytes unescaped in two parts: the second part sees the history the first leaves (R56). -/
theorem unescape_append (l l' : List Byte) (h2 h1 : Option Byte) :
    unescape h2 h1 (l ++ l') = unescape h2 h1 l ++ unescape (historyOf h2 h1 l).1 (historyOf h2 h1 l).2 l' := by
  induction l generalizing h2 h1 with
  | nil => simp [historyOf]
  | cons b rest ih =>
    rw [List.cons_append, unescape, unescape, historyOf, ih]
    split <;> simp

theorem historyOf_append (l l' : List Byte) (h2 h1 : Option Byte) :
    historyOf h2 h1 (l ++ l') = historyOf (historyOf h2 h1 l).1 (historyOf h2 h1 l).2 l' := by
  induction l generalizing h2 h1 with
  | nil => rfl
  | cons b rest ih => exact ih h1 (some b)

/-- One raw byte delivers at most one byte. -/
theorem unescape_singleton (h2 h1 : Option Byte) (b : Byte) :
    unescape h2 h1 [b] = if b = 0x03 ∧ h1 = some 0x00 ∧ h2 = some 0x00 then [] else [b] := rfl

theorem unescape_take_succ_length_le (l : List Byte) (h2 h1 : Option Byte) (r : Nat) :
    (unescape h2 h1 (l.take (r + 1))).length ≤ (unescape h2 h1 (l.take r)).length + 1 := by
  rw [List.take_add, unescape_append, List.length_append]
  refine Nat.add_le_add_left ((unescape_length_le _ _ _).trans ?_) _
  simp

/-! ### Raw bytes taken -/

/-- `t` comes from `s` by taking the next `r` raw bytes, all below LEN (R58). -/
structure TookRaw (s : State) (r : Nat) (t : State) : Prop where
  mem : t.mem = s.mem
  len : t.len = s.len
  count : r ≤ s.rawAhead.length
  bytepos : t.bytepos.toNat = s.bytepos.toNat + r
  history : s.HistoryAfter r t
  raws : (t.lastRaw2, t.lastRaw) = historyOf s.lastRaw2 s.lastRaw (s.rawAhead.take r)

theorem TookRaw.refl (s : State) : TookRaw s 0 s :=
  ⟨rfl, rfl, Nat.zero_le _, rfl, historyAfter_none s, by simp [historyOf]⟩

theorem rawAhead_getElem? (s : State) (i : Nat) :
    s.rawAhead[i]? =
      if i < s.len.toNat - s.bytepos.toNat then some ((s.mem.read (s.bytepos.toNat + i)).getD 0) else none := by
  by_cases h : i < s.len.toNat - s.bytepos.toNat <;> simp [State.rawAhead, h]

/-- The raw bytes left after `r` of them were taken. -/
theorem TookRaw.rawAhead {s t : State} {r : Nat} (h : TookRaw s r t) : t.rawAhead = s.rawAhead.drop r := by
  apply List.ext_getElem?
  intro i
  have count := h.count
  rw [rawAhead_length] at count
  rw [List.getElem?_drop, rawAhead_getElem?, rawAhead_getElem?, h.mem, h.len, h.bytepos, Nat.add_assoc]
  simp only [show i < s.len.toNat - (s.bytepos.toNat + r) ↔ r + i < s.len.toNat - s.bytepos.toNat by omega]

/-- The raw history in two parts (R28). -/
theorem historyAfter_trans {s t u : State} {a b : Nat} (h : s.HistoryAfter a t) (k : t.HistoryAfter b u)
    (hraw : t.rawAhead = s.rawAhead.drop a) : s.HistoryAfter (a + b) u := by
  obtain ⟨h0, h1⟩ := h
  obtain ⟨k0, k1⟩ := k
  have later : ∀ i, t.rawAhead.getD i 0 = s.rawAhead.getD (a + i) 0 := fun i => by
    simp [hraw, List.getD_eq_getElem?_getD]
  rcases Nat.eq_zero_or_pos a with rfl | ha
  · obtain ⟨hhv, hh1, hh2⟩ := h0 rfl
    rw [hraw, List.drop_zero, hhv, hh1] at k1
    rw [hhv, hh1, hh2] at k0
    rw [Nat.zero_add]
    exact ⟨k0, k1⟩
  · obtain ⟨hhv, hh1, hh2⟩ := h1 ha
    refine ⟨fun h => by omega, fun _ => ?_⟩
    rcases Nat.eq_zero_or_pos b with rfl | hb
    · obtain ⟨khv, kh1, kh2⟩ := k0 rfl
      rw [khv, kh1, kh2]
      exact ⟨hhv, hh1, hh2⟩
    · obtain ⟨khv, kh1, kh2⟩ := k1 hb
      refine ⟨by omega, ?_, ?_⟩
      · rw [kh1, later, Nat.add_sub_assoc hb]
      · rw [kh2, if_neg (show a + b ≠ 1 by omega)]
        split
        · rw [hh1]
          congr 1
          omega
        · rw [later]
          congr 1
          omega

theorem TookRaw.trans {s t u : State} {a b : Nat} (h : TookRaw s a t) (k : TookRaw t b u) : TookRaw s (a + b) u where
  mem := k.mem.trans h.mem
  len := k.len.trans h.len
  count := by
    have hc := h.count
    have kc := k.count
    rw [h.rawAhead, List.length_drop] at kc
    omega
  bytepos := by rw [k.bytepos, h.bytepos, Nat.add_assoc]
  history := historyAfter_trans h.history k.history h.rawAhead
  raws := by rw [k.raws, List.take_add, historyOf_append, ← h.rawAhead, ← h.raws]

/-- The bytes delivered from `a + q` raw bytes: those from the first `a`, then those from the next `q` (R56). -/
theorem TookRaw.delivered_add {s t : State} {a : Nat} (h : TookRaw s a t) (q : Nat) :
    s.delivered (a + q) = s.delivered a ++ t.delivered q := by
  rw [State.delivered, List.take_add, unescape_append, ← h.raws, ← h.rawAhead]
  rfl

/-- All bytes delivered ahead, split where `a` raw bytes were taken. -/
theorem TookRaw.delivered_all {s t : State} {a : Nat} (h : TookRaw s a t) :
    s.delivered s.rawAhead.length = s.delivered a ++ t.delivered t.rawAhead.length := by
  rw [← h.delivered_add, h.rawAhead, List.length_drop, Nat.add_sub_cancel' h.count]

theorem aheadWritten_iff (s : State) :
    s.aheadWritten = true ↔
      ∀ i < s.len.toNat - s.bytepos.toNat, (s.mem.read (s.bytepos.toNat + i)).isSome = true := by
  simp [State.aheadWritten]

theorem TookRaw.aheadWritten {s t : State} {r : Nat} (h : TookRaw s r t) (hs : s.aheadWritten = true) :
    t.aheadWritten = true := by
  rw [aheadWritten_iff] at hs ⊢
  intro i hi
  rw [h.len, h.bytepos] at hi
  rw [h.mem, h.bytepos, Nat.add_assoc]
  exact hs (r + i) (by omega)

/-- The first of the raw bytes ahead is IBUF's byte at BYTEPOS (R50). -/
theorem rawAhead_take_one {s : State} {b : Byte} (hlt : s.bytepos.toNat < s.len.toNat)
    (hb : s.mem.read s.bytepos.toNat = some b) : s.rawAhead.take 1 = [b] := by
  rw [List.take_one, List.head?_eq_getElem?, rawAhead_getElem?, if_pos (by omega), Nat.add_zero, hb]
  rfl

/-- The next raw byte of a readable buffer, taken (R58). -/
theorem takeRaw_tookRaw {s : State} {b : Byte} (hlt : s.bytepos.toNat < s.len.toNat)
    (hb : s.mem.read s.bytepos.toNat = some b) : TookRaw s 1 (s.takeRaw b) := by
  have hvNext : (s.takeRaw b).hv.toNat = min (s.hv.toNat + 1) 2 := by
    simp only [State.takeRaw_hv, BitVec.toNat_ofNat]
    omega
  refine ⟨rfl, rfl, ?_, takeRaw_bytepos_toNat b s hlt, ⟨fun h => by simp at h, fun _ => ⟨hvNext, ?_, rfl⟩⟩, ?_⟩
  · rw [rawAhead_length]
    omega
  · rw [List.getD_eq_getElem?_getD, rawAhead_getElem?, if_pos (by omega), Nat.sub_self, Nat.add_zero, hb]
    rfl
  · rw [rawAhead_take_one hlt hb, historyOf, historyOf, State.lastRaw2, State.lastRaw, State.lastRaw]
    have two : (s.takeRaw b).hv = 2 ↔ s.hv ≠ 0 := by
      simp only [← BitVec.toNat_inj, ne_eq, hvNext]
      simp
      omega
    have nonzero : (s.takeRaw b).hv ≠ 0 := by
      simp only [← BitVec.toNat_inj, ne_eq, hvNext]
      simp
    rw [if_neg nonzero]
    by_cases h : s.hv = 0
    · rw [if_neg fun h2 => two.1 h2 h, if_pos h]
      rfl
    · rw [if_pos (two.2 h), if_neg h]
      rfl

/-! ### FetchDelivered over written bytes -/

/-- The drop test of R56, on the history as the stream has it. -/
theorem drops_iff (s : State) (b : Byte) :
    s.drops b = true ↔ b = 0x03 ∧ s.lastRaw = some 0x00 ∧ s.lastRaw2 = some 0x00 := by
  simp only [State.drops, State.lastRaw, State.lastRaw2, Bool.and_eq_true, beq_iff_eq]
  by_cases h : s.hv = 2
  · simp [h, and_assoc]
  · have h : ¬s.hv = 2#2 := h
    simp [h]

/-- The next raw byte is delivered, unless the drop test takes it out (R56). -/
theorem delivered_one {s : State} {b : Byte} (hlt : s.bytepos.toNat < s.len.toNat)
    (hb : s.mem.read s.bytepos.toNat = some b) : s.delivered 1 = if s.drops b = true then [] else [b] := by
  rw [State.delivered, rawAhead_take_one hlt hb, unescape_singleton]
  simp only [drops_iff]

/-- FetchDelivered over written bytes: it takes raw bytes up to the first that is delivered, or all of them, and then a
pad byte or the strict mode's fault is next (R58). -/
theorem fetchLoop_readable (left : Nat) (s : State) (hs : s.Readable) (hl : left = s.len.toNat - s.bytepos.toNat) :
    ∃ r t, TookRaw s r t ∧ t.padded = s.padded ∧ (∀ r' < r, s.delivered r' = []) ∧
      ((∃ b, fetchLoop left s = .ok b t ∧ s.delivered r = [b]) ∨
        (fetchLoop left s = fetchPastEnd t ∧ s.delivered r = [] ∧ r = s.rawAhead.length)) := by
  induction left generalizing s with
  | zero => exact ⟨0, s, .refl s, rfl, by simp, .inr ⟨rfl, delivered_zero s, by simp [← hl]⟩⟩
  | succ left ih =>
    have ⟨hlen, hw⟩ := hs
    have hlt : s.bytepos.toNat < s.len.toNat := by omega
    obtain ⟨b, hb⟩ := Option.isSome_iff_exists.1 ((aheadWritten_iff s).1 hw 0 (by omega))
    have hread : memRead s.bytepos.toNat s = .ok b s := by
      simp [memRead, hlt.trans_le hlen, observeByte, show s.mem.read s.bytepos.toNat = some b from hb]
    have one := takeRaw_tookRaw hlt hb
    have first := delivered_one hlt hb
    simp only [fetchLoop, hread, Res.ok_andThen]
    by_cases hd : s.drops b = true
    · have hl' : left = (s.takeRaw b).len.toNat - (s.takeRaw b).bytepos.toNat := by
        rw [takeRaw_bytepos_toNat b s hlt, State.takeRaw_len]
        omega
      obtain ⟨r, t, htook, hpad, hnone, hres⟩ := ih (s.takeRaw b) ⟨hlen, one.aheadWritten hw⟩ hl'
      rw [if_pos hd] at first
      have skip : ∀ q, s.delivered (1 + q) = (s.takeRaw b).delivered q := fun q => by
        rw [one.delivered_add, first, List.nil_append]
      refine ⟨1 + r, t, one.trans htook, hpad, fun r' hr' => ?_, ?_⟩
      · cases r' with
        | zero => exact delivered_zero s
        | succ q => rw [Nat.add_comm q 1, skip, hnone q (by omega)]
      · rw [if_pos hd, skip]
        refine hres.imp_right fun ⟨he, hn, hr⟩ => ⟨he, hn, ?_⟩
        rw [hr, one.rawAhead, List.length_drop, Nat.add_sub_cancel' one.count]
    · rw [if_neg hd] at first
      refine ⟨1, s.takeRaw b, one, rfl, fun r' hr' => ?_, .inl ⟨b, by rw [if_neg hd], first⟩⟩
      rw [Nat.lt_one_iff.1 hr', delivered_zero]

/-! ### Where n bits leave the cursor -/

/-- `t` is `s` with the cursor moved over `n` stream bits: `State.Advanced` in the form that two moves compose in. -/
structure Reaches (s : State) (n : Nat) (t : State) : Prop where
  moves : Moves s t
  consumed : t.consumed = satAdd s.consumed n
  padded : t.padded = (s.padded || decide (s.upcoming.length < n))
  stream : ∀ i, t.streamBit i = s.streamBit (n + i)
  upcoming : n ≤ s.upcoming.length → t.upcoming = s.upcoming.drop n
  raw : ∃ r, TookRaw s r t ∧ s.Requires n r
  cacheBits : t.cacheBits.toNat = s.cacheBits.toNat + 8 * s.bytesFor n - n
  cache : t.cache =
    if s.bytesFor n = 0 then s.cache else (s.delivered s.rawAhead.length).getD (s.bytesFor n - 1) 0x00

theorem Reaches.advanced {s t : State} {n : Nat} (h : Reaches s n t) (hs : s.Readable) : s.Advanced n t := by
  obtain ⟨r, htook, hreq⟩ := h.raw
  exact ⟨h.consumed, h.padded, h.stream, h.upcoming, htook.aheadWritten hs.2, h.moves.bytepos, r, hreq, htook.bytepos,
    htook.history, h.cacheBits, h.cache⟩

theorem Reaches.readable {s t : State} {n : Nat} (h : Reaches s n t) (hs : s.Readable) : t.Readable := by
  obtain ⟨r, htook, -⟩ := h.raw
  obtain ⟨hlen, hw⟩ := hs
  exact ⟨by rw [h.moves.len, h.moves.ibufBytes]; exact hlen, htook.aheadWritten hw⟩

theorem Reaches.refl (s : State) : Reaches s 0 s where
  moves := .refl s
  consumed := (satAdd_zero _).symm
  padded := by simp
  stream := by simp
  upcoming := by simp
  raw := ⟨0, .refl s, requires_none (Nat.zero_le _)⟩
  cacheBits := by simp [bytesFor_eq_zero (Nat.zero_le _)]
  cache := by simp [bytesFor_eq_zero (Nat.zero_le _)]

/-- The bytes that n bits require deliver no byte too many (R61: no look-ahead). -/
theorem requires_delivered_le {s : State} {n r : Nat} (h : s.Requires n r) : (s.delivered r).length ≤ s.bytesFor n := by
  obtain ⟨-, -, hmin⟩ := h
  cases r with
  | zero => simp
  | succ r => exact (unescape_take_succ_length_le _ _ _ r).trans (hmin r (Nat.lt_succ_self r))

/-- What two runs of bits require is what the first requires, and then what the second requires after it (R61). -/
theorem requires_add {s t : State} {a b r q : Nat} (htook : TookRaw s r t) (h : s.Requires a r) (k : t.Requires b q)
    (hadd : s.bytesFor (a + b) = s.bytesFor a + t.bytesFor b) : s.Requires (a + b) (r + q) := by
  have hle := requires_delivered_le h
  obtain ⟨hr, hdone, hmin⟩ := h
  obtain ⟨hq, kdone, kmin⟩ := k
  have left := htook.rawAhead ▸ List.length_drop (i := r) (l := s.rawAhead)
  refine ⟨by omega, ?_, fun r' hr' => ?_⟩
  · rw [htook.delivered_add, List.length_append]
    omega
  · rcases Nat.lt_or_ge r' r with hlt | hge
    · have := hmin r' hlt
      omega
    · obtain ⟨p, rfl⟩ := Nat.exists_eq_add_of_le hge
      have := kmin p (by omega)
      rw [htook.delivered_add, List.length_append]
      omega

/-- Two moves of the cursor are one over their bits together (R93). -/
theorem Reaches.trans {s t u : State} {a b : Nat} (h : Reaches s a t) (k : Reaches t b u) : Reaches s (a + b) u := by
  obtain ⟨r, htook, hreq⟩ := h.raw
  obtain ⟨q, ktook, kreq⟩ := k.raw
  have hbits := h.cacheBits
  have hadd : s.bytesFor (a + b) = s.bytesFor a + t.bytesFor b := by
    simp only [State.bytesFor] at hbits ⊢
    omega
  refine ⟨h.moves.trans k.moves, by rw [k.consumed, h.consumed, satAdd_satAdd], ?padded, fun i => ?stream,
    fun hle => ?upcoming, ⟨r + q, htook.trans ktook, requires_add htook hreq kreq hadd⟩, ?cacheBits, ?cache⟩
  case padded =>
    rw [k.padded, h.padded, Bool.or_assoc, ← Bool.decide_or]
    congr 2
    by_cases hle : a ≤ s.upcoming.length
    · rw [h.upcoming hle, List.length_drop]
      apply propext
      omega
    · apply propext
      omega
  case stream => rw [k.stream, h.stream, Nat.add_assoc]
  case upcoming =>
    have hup := h.upcoming (by omega)
    rw [k.upcoming (by rw [hup, List.length_drop]; omega), hup, List.drop_drop]
  case cacheBits =>
    have kbits := k.cacheBits
    simp only [State.bytesFor] at hbits kbits ⊢
    omega
  case cache =>
    rw [k.cache, hadd]
    by_cases hb : t.bytesFor b = 0
    · rw [if_pos hb, h.cache, hb, Nat.add_zero]
    · rw [if_neg hb, if_neg (by omega), htook.delivered_all]
      have hle := requires_delivered_le hreq
      obtain ⟨-, hdone, -⟩ := hreq
      by_cases hd : (s.delivered r).length = s.bytesFor a
      · rw [List.getD_append_right _ _ _ _ (by omega)]
        congr 1
        omega
      · have none : t.rawAhead = [] := by
          rw [htook.rawAhead, List.drop_eq_nil_iff]
          omega
        simp only [none, List.length_nil, delivered_zero, List.append_nil]
        rw [List.getD_eq_default _ _ (by simp), List.getD_eq_default _ _ (by omega)]

/-! ### The budget and the mode along the way -/

theorem canConsume_mono {s : State} {a b : Nat} (h : s.CanConsume b) (hab : a ≤ b) : s.CanConsume a :=
  ⟨fun hs => hab.trans (h.1 hs), fun hb => hab.trans (h.2 hb)⟩

/-- Bits that can be consumed can be consumed after the ones before them were. -/
theorem Reaches.canConsume {s t : State} {a b : Nat} (h : Reaches s a t) (hc : s.CanConsume (a + b)) : t.CanConsume b := by
  obtain ⟨hstrict, hbudget⟩ := hc
  refine ⟨fun hs => ?_, fun hb => ?_⟩
  · have := hstrict (h.moves.strict ▸ hs)
    rw [h.upcoming (by omega), List.length_drop]
    omega
  · have := hbudget (h.moves.budget ▸ hb)
    rw [h.consumed, h.moves.len, satAdd_toNat]
    omega

/-! ### One bit -/

/-- The bits of the cache, one counted (R28, R61). -/
theorem upcoming_countBit {s : State} (h : s.cacheBits ≠ 0) : s.upcoming = s.cacheBit :: s.countBit.upcoming := by
  have dec := countBit_cacheBits_toNat h
  generalize hk : s.countBit.cacheBits.toNat = k at dec
  have ahead : s.cacheAhead = s.cacheBit :: s.countBit.cacheAhead := by
    rw [State.cacheAhead, State.cacheAhead, hk, ← dec, List.range_succ_eq_map, List.map_cons, List.map_map,
      State.cacheBit, ← dec]
    refine congrArg _ (List.map_congr_left fun i hi => ?_)
    have hik := List.mem_range.1 hi
    show s.cache.getLsbD (k + 1 - 1 - (i + 1)) = s.cache.getLsbD (k - 1 - i)
    congr 1
    omega
  rw [State.upcoming, ahead]
  rfl

/-- A full cache holds its byte's eight bits (R54, R61). -/
theorem cacheAhead_fillCache (b : Byte) (s : State) : (s.fillCache b).cacheAhead = byteBits b := rfl

/-- The bytes ahead give the stream behind the cache. -/
theorem upcoming_eq (s : State) : s.upcoming = s.cacheAhead ++ (s.delivered s.rawAhead.length).flatMap byteBits := by
  rw [State.delivered, List.take_length, State.upcoming]

theorem cacheAhead_empty {s : State} (h : s.cacheBits = 0) : s.cacheAhead = [] := by
  rw [State.cacheAhead, h]
  rfl

theorem upcoming_eq_nil {s : State} (hc : s.cacheBits = 0) (h : s.delivered s.rawAhead.length = []) :
    s.upcoming = [] := by
  rw [upcoming_eq, cacheAhead_empty hc, h]
  rfl

/-- `t` is `s` with its next stream bit in the cache: fetched if need be, but not yet counted (R61). -/
structure Filled (s t : State) : Prop where
  moves : Moves s t
  consumed : t.consumed = s.consumed
  padded : t.padded = (s.padded || decide (s.upcoming.length < 1))
  stream : ∀ i, t.streamBit i = s.streamBit i
  upcoming : 1 ≤ s.upcoming.length → t.upcoming = s.upcoming
  raw : ∃ r, TookRaw s r t ∧ s.Requires 1 r
  nonempty : t.cacheBits ≠ 0
  cacheBits : t.cacheBits.toNat = s.cacheBits.toNat + 8 * s.bytesFor 1
  cache : t.cache =
    if s.bytesFor 1 = 0 then s.cache else (s.delivered s.rawAhead.length).getD (s.bytesFor 1 - 1) 0x00

/-- The cached bit is the stream's next bit. -/
theorem Filled.cacheBit {s t : State} (h : Filled s t) : t.cacheBit = s.streamBit 0 := by
  rw [← h.stream, State.streamBit, upcoming_countBit h.nonempty]
  rfl

/-- Counting the cached bit moves over one bit. -/
theorem Filled.reaches {s t : State} (h : Filled s t) : Reaches s 1 t.countBit := by
  have next := upcoming_countBit h.nonempty
  obtain ⟨r, htook, hreq⟩ := h.raw
  refine ⟨h.moves.trans (countBit_moves t), by rw [State.countBit_consumed, h.consumed], h.padded, fun i => ?_,
    fun hle => ?_, ⟨r, ⟨htook.mem, htook.len, htook.count, htook.bytepos, htook.history, htook.raws⟩, hreq⟩, ?_, h.cache⟩
  · rw [← h.stream, State.streamBit, State.streamBit, next, Nat.add_comm, List.getD_cons_succ]
  · rw [← h.upcoming hle, next]
    rfl
  · have bits := h.cacheBits
    have dec := countBit_cacheBits_toNat h.nonempty
    omega

theorem filled_refl {s : State} (h : s.cacheBits ≠ 0) : Filled s s := by
  have hne : 1 ≤ s.cacheBits.toNat := countBit_cacheBits_toNat h ▸ Nat.le_add_left 1 _
  have some : ¬s.upcoming.length < 1 := by
    rw [upcoming_countBit h]
    simp
  exact ⟨.refl s, rfl, by simp [some], fun _ => rfl, fun _ => rfl, ⟨0, .refl s, requires_none hne⟩, h,
    by simp [bytesFor_eq_zero hne], by simp [bytesFor_eq_zero hne]⟩

/-- The byte, or pad byte, that a fetch delivers fills the cache with the next bits of the stream (R59, R61). -/
theorem filled_fillCache {s t : State} {b : Byte} {r : Nat} (hc : s.cacheBits = 0) (hm : Moves s t)
    (hcons : t.consumed = s.consumed) (htook : TookRaw s r t) (hnone : ∀ r' < r, s.delivered r' = [])
    (hres : (s.delivered r = [b] ∧ t.padded = s.padded) ∨
      (s.delivered r = [] ∧ r = s.rawAhead.length ∧ b = 0x00 ∧ t.padded = true)) : Filled s (t.fillCache b) := by
  have hbytes : s.bytesFor 1 = 1 := by simp [State.bytesFor, hc]
  have ups : s.upcoming = (s.delivered r ++ t.delivered t.rawAhead.length).flatMap byteBits := by
    rw [upcoming_eq, cacheAhead_empty hc, htook.delivered_all, List.nil_append]
  have upt : (t.fillCache b).upcoming = byteBits b ++ (t.delivered t.rawAhead.length).flatMap byteBits := by
    rw [upcoming_eq, cacheAhead_fillCache]
    rfl
  have hreq : s.Requires 1 r := by
    refine ⟨htook.count, ?_, fun r' hr' => by simp [hnone r' hr', hbytes]⟩
    rcases hres with ⟨hd, -⟩ | ⟨-, hr, -⟩
    · simp [hd, hbytes]
    · exact .inr hr
  have took : TookRaw s r (t.fillCache b) :=
    ⟨htook.mem, htook.len, htook.count, htook.bytepos, htook.history, htook.raws⟩
  rcases hres with ⟨hd, hpad⟩ | ⟨hd, hr, rfl, hpad⟩
  · have same : (t.fillCache b).upcoming = s.upcoming := by simp [upt, ups, hd]
    have some : ¬s.upcoming.length < 1 := by
      rw [← same, upt]
      simp [byteBits]
    refine ⟨hm.trans (fillCache_moves b t), hcons, by simp [some, hpad], fun i => ?_, fun _ => same, ⟨r, took, hreq⟩,
      by simp, by simp [hbytes, hc], ?_⟩
    · rw [State.streamBit, same]
      rfl
    · rw [hbytes, if_neg (by decide), htook.delivered_all, hd]
      rfl
  · have none : s.delivered s.rawAhead.length = [] := hr ▸ hd
    have ups := upcoming_eq_nil hc none
    have upt : (t.fillCache 0x00).upcoming = List.replicate 8 false := by
      have rest := none
      rw [htook.delivered_all, hd, List.nil_append] at rest
      rw [upt, rest]
      rfl
    refine ⟨hm.trans (fillCache_moves _ t), hcons, by simp [ups, hpad], fun i => ?_, fun h => by simp [ups] at h,
      ⟨r, took, hreq⟩, by simp, by simp [hbytes, hc], ?_⟩
    · rw [State.streamBit, State.streamBit, ups, upt]
      rw [List.getD_eq_getElem?_getD, List.getElem?_getD_replicate_default_eq]
      rfl
    · rw [hbytes, if_neg (by decide), none]
      rfl

/-- NextBit returns the stream's next bit and moves over it, where that bit can be consumed (R61). -/
theorem nextBit_readable {s : State} (hs : s.Readable) (hc : s.CanConsume 1) :
    ∃ t, nextBit s = .ok (s.streamBit 0) t ∧ Reaches s 1 t := by
  have inBudget : s.overBudget = false := by
    cases hb : s.budget with
    | false => simp [State.overBudget, hb]
    | true =>
      have := hc.2 hb
      simp only [State.overBudget, hb, Bool.true_and, decide_eq_false_iff_not]
      omega
  suffices h : ∃ t, nextBit s = .ok t.cacheBit t.countBit ∧ Filled s t by
    obtain ⟨t, hn, hf⟩ := h
    exact ⟨_, hf.cacheBit ▸ hn, hf.reaches⟩
  by_cases hbits : s.cacheBits = 0
  · have frame := fetchDelivered_fetches s
    obtain ⟨r, t, htook, hpad, hnone, ⟨b, hf, hd⟩ | ⟨hf, hd, hr⟩⟩ := fetchLoop_readable _ s hs rfl
    · have hfd : fetchDelivered s = .ok b t := hf
      rw [hfd] at frame
      refine ⟨t.fillCache b, by simp [nextBit, inBudget, hbits, hfd], ?_⟩
      exact filled_fillCache hbits frame.toMoves frame.sameConsumed htook hnone (.inl ⟨hd, hpad⟩)
    · have hfd : fetchDelivered s = fetchPastEnd t := hf
      rcases fetchPastEnd_cases t with ⟨hst, hp⟩ | ⟨hst, hp⟩
      · rw [hp] at hfd
        rw [hfd] at frame
        have := hc.1 (frame.strict ▸ hst)
        rw [upcoming_eq_nil hbits (hr ▸ hd)] at this
        simp at this
      · rw [hp] at hfd
        rw [hfd] at frame
        refine ⟨t.setPadded.fillCache 0x00, by simp [nextBit, inBudget, hbits, hfd], ?_⟩
        exact filled_fillCache hbits frame.toMoves frame.sameConsumed
          ⟨htook.mem, htook.len, htook.count, htook.bytepos, htook.history, htook.raws⟩ hnone (.inr ⟨hd, hr, rfl, rfl⟩)
  · exact ⟨s, by rw [nextBit, if_neg (by simp [inBudget]), if_neg hbits], filled_refl hbits⟩

/-! ### Values of runs of bits -/

/-- The value of bits in two parts, the first the more significant (R54). -/
theorem bitsVal_append (l l' : List Bool) : bitsVal (l ++ l') = bitsVal l * 2 ^ l'.length + bitsVal l' := by
  have from_start : ∀ (k : List Bool) (v : Nat),
      k.foldl (fun v b => 2 * v + b.toNat) v = v * 2 ^ k.length + bitsVal k := by
    intro k
    induction k with
    | nil => simp [bitsVal]
    | cons b k ih =>
      intro v
      rw [bitsVal, List.foldl_cons, List.foldl_cons, ih, ih, List.length_cons, Nat.pow_succ]
      ring
  rw [bitsVal, List.foldl_append, from_start]
  rfl

@[simp] theorem streamVal_zero (s : State) (off : Nat) : s.streamVal off 0 = 0 := rfl

theorem streamVal_add (s : State) (off a b : Nat) :
    s.streamVal off (a + b) = s.streamVal off a * 2 ^ b + s.streamVal (off + a) b := by
  simp only [State.streamVal, List.range_add, List.map_append, bitsVal_append, List.map_map, List.length_map,
    List.length_range, Function.comp_def, Nat.add_assoc]

/-- One bit's value is that bit. -/
@[simp] theorem streamVal_one (s : State) (off : Nat) : s.streamVal off 1 = (s.streamBit off).toNat := by
  simp [State.streamVal, bitsVal, List.range_succ]

theorem streamVal_succ (s : State) (off n : Nat) :
    s.streamVal off (n + 1) = (s.streamBit off).toNat * 2 ^ n + s.streamVal (off + 1) n := by
  rw [Nat.add_comm n 1, streamVal_add, streamVal_one]

theorem streamVal_lt (s : State) (off n : Nat) : s.streamVal off n < 2 ^ n := by
  induction n generalizing off with
  | zero => simp
  | succ n ih =>
    have := ih (off + 1)
    rw [streamVal_succ, Nat.pow_succ]
    cases s.streamBit off <;> simp <;> omega

/-- A field of as many bits holds their value. -/
theorem toNat_ofNat_streamVal (s : State) (off w : Nat) : (BitVec.ofNat w (s.streamVal off w)).toNat = s.streamVal off w := by
  rw [BitVec.toNat_ofNat, Nat.mod_eq_of_lt (streamVal_lt ..)]

/-! ### Reads along the stream of one state -/

section
variable {s t : State} {k : Nat} (hs : s.Readable) (h : Reaches s k t)
include hs h

/-- NextBit after `k` bits returns bit `k` (R61). -/
theorem nextBit_at (hc : s.CanConsume (k + 1)) : ∃ u, nextBit t = .ok (s.streamBit k) u ∧ Reaches s (k + 1) u := by
  obtain ⟨u, hn, hu⟩ := nextBit_readable (h.readable hs) (h.canConsume hc)
  rw [h.stream] at hn
  exact ⟨u, hn, h.trans hu⟩

/-- ReadBitsInternal after `k` bits returns the value of the `n` bits from bit `k` on (R54, R63). -/
theorem readBits_at (n : Nat) (hc : s.CanConsume (k + n)) :
    ∃ u, readBits n t = .ok (s.streamVal k n) u ∧ Reaches s (k + n) u := by
  induction n generalizing k t with
  | zero => exact ⟨t, rfl, h⟩
  | succ n ih =>
    obtain ⟨u, hn, hu⟩ := nextBit_at hs h (canConsume_mono hc (by omega))
    rw [← Nat.add_assoc, Nat.add_right_comm] at hc ⊢
    obtain ⟨w, hr, hw⟩ := ih hu hc
    exact ⟨w, by rw [readBits_succ, hn, Res.ok_andThen, hr, Res.ok_andThen, streamVal_succ], hw⟩

end

end Sys2Proof.Machine
end

section
/-! Commands over the logical stream: RDBITS and SKBITS over a readable buffer, the contract of emulation prevention
(O31), RDUE's code of every value (O19), and a byte the host has not written (O33). -/
namespace Sys2Proof.Machine

/-! ### RDBITS and SKBITS -/

theorem exec_rdbits_readable {s : State} (n : BitVec 6) (hs : s.Readable) (hc : s.CanConsume n.toNat) :
    ∃ t, exec (.rdbits n) s = .next (t.setResult (s.streamVal 0 n.toNat)).complete ∧ Reaches s n.toNat t := by
  obtain ⟨t, hr, ht⟩ := readBits_at hs (.refl s) n.toNat (by rwa [Nat.zero_add])
  rw [Nat.zero_add] at ht
  exact ⟨t, by rw [exec, execRdbits, countOperand, hr, finish], ht⟩

theorem exec_skbits_readable {s : State} (n : BitVec 6) (hs : s.Readable) (hc : s.CanConsume n.toNat) :
    ∃ t, exec (.skbits n) s = .next t.complete ∧ Reaches s n.toNat t := by
  obtain ⟨t, hr, ht⟩ := readBits_at hs (.refl s) n.toNat (by rwa [Nat.zero_add])
  rw [Nat.zero_add] at ht
  exact ⟨t, by rw [exec, execSkbits, countOperand, hr, finish], ht⟩

/-! ### The emulation-prevention contract -/

/-- In permissive mode with the budget off every bit can be consumed (R126). -/
theorem canConsume_permissive {s : State} (hst : s.strict = false) (hb : s.budget = false) (n : Nat) : s.CanConsume n :=
  ⟨fun h => by simp [hst] at h, fun h => by simp [hb] at h⟩

/-- Skips in permissive mode complete, and the stream goes on behind their bits (R93, R95). -/
theorem execAll_skbits (ns : List (BitVec 6)) {s : State} (hs : s.Readable) (hst : s.strict = false)
    (hb : s.budget = false) :
    ∃ t, execAll (ns.map .skbits) s = .next t ∧ t.Readable ∧ t.strict = false ∧ t.budget = false ∧
      ∀ i, t.streamBit i = s.streamBit ((ns.map fun k => k.toNat).sum + i) := by
  induction ns generalizing s with
  | nil => exact ⟨s, rfl, hs, hst, hb, fun i => by simp⟩
  | cons n ns ih =>
    obtain ⟨u, hx, hu⟩ := exec_skbits_readable n hs (canConsume_permissive hst hb _)
    have hur : u.complete.Readable := hu.readable hs
    obtain ⟨t, ht, htr, htst, htb, hstream⟩ := ih hur (hu.moves.strict.trans hst) (hu.moves.budget.trans hb)
    refine ⟨t, by rw [List.map_cons, execAll, hx]; exact ht, htr, htst, htb, fun i => ?_⟩
    rw [hstream, List.map_cons, List.sum_cons, Nat.add_assoc, ← hu.stream]
    rfl

/-- One byte more: it is left out by the two bytes before it (R57). -/
theorem contractBytes_concat (l : List Byte) (b : Byte) :
    contractBytes (l ++ [b]) = contractBytes l ++
      if 2 ≤ l.length ∧ b = 0x03 ∧ l.getD (l.length - 1) 0 = 0x00 ∧ l.getD (l.length - 2) 0 = 0x00 then [] else [b] := by
  have before : ∀ i < l.length, (l ++ [b]).getD i 0 = l.getD i 0 := fun i hi => List.getD_append _ _ _ _ hi
  have last : (l ++ [b]).getD l.length 0 = b := by simp
  simp only [contractBytes, List.length_append, List.length_singleton, List.range_succ, List.filter_append,
    List.map_append]
  congr 1
  · rw [List.filter_congr fun i hi => ?_]
    · refine List.map_congr_left fun i hi => before i ?_
      exact List.mem_range.1 (List.mem_filter.1 hi).1
    · have hi := List.mem_range.1 hi
      rw [before i hi, before (i - 1) (by omega), before (i - 2) (by omega)]
  · by_cases h2 : 2 ≤ l.length
    · rw [List.filter_singleton, last, before _ (by omega), before _ (by omega)]
      have test : ∀ x y : Byte, (b == 0x03 && y == 0x00 && x == 0x00) = decide (b = 0x03 ∧ y = 0x00 ∧ x = 0x00) := by
        simp [Bool.decide_and, Bool.and_assoc, beq_eq_decide]
      have drop : ∀ p : Prop, ∀ [Decidable p], ((bif !decide p then [l.length] else []).map fun i => (l ++ [b]).getD i 0) =
          if p then [] else [b] := by
        intro p _
        by_cases hp : p <;> simp [hp]
      simp only [h2, decide_true, Bool.true_and, true_and, test]
      exact drop _
    · simp [h2]

/-- The raw history of a buffer's bytes, from the initial parse state (R48, R56). -/
theorem historyOf_eq_zeros (l : List Byte) :
    (historyOf none none l).2 = some 0x00 ∧ (historyOf none none l).1 = some 0x00 ↔
      2 ≤ l.length ∧ l.getD (l.length - 1) 0 = 0x00 ∧ l.getD (l.length - 2) 0 = 0x00 := by
  rcases List.eq_nil_or_concat l with rfl | ⟨l, y, rfl⟩
  · simp [historyOf]
  · rcases List.eq_nil_or_concat l with rfl | ⟨l, x, rfl⟩
    · simp [historyOf]
    · simp [historyOf_append, historyOf]

/-- Deleting each 0x03 after two 0x00 by index is what the escape test on the raw history does (R56, R57). -/
theorem contractBytes_eq_unescape (l : List Byte) : contractBytes l = unescape none none l := by
  induction l using List.reverseRecOn with
  | nil => rfl
  | append_singleton l b ih =>
    rw [unescape_append, ← ih, unescape_singleton, contractBytes_concat]
    refine congrArg _ (if_congr ?_ rfl rfl)
    rw [historyOf_eq_zeros]
    exact and_left_comm

/-- Settles O31: the skips move along the stream, which in the initial parse state is the contract's bytes. -/
theorem commandsReadTheBufferWithEscapesDeleted : Obligations.CommandsReadTheBufferWithEscapesDeleted := by
  intro s ns n hs hst hb _ hcb hhv hn
  obtain ⟨t, ht, htr, htst, htb, hstream⟩ := execAll_skbits ns hs hst hb
  obtain ⟨u, hu, -⟩ := exec_rdbits_readable n htr (canConsume_permissive htst htb _)
  refine ⟨t, _, ht, hu, ?_⟩
  have start : s.upcoming = (contractBytes s.rawAhead).flatMap byteBits := by
    rw [State.upcoming, cacheAhead_empty hcb, contractBytes_eq_unescape, State.lastRaw, State.lastRaw2, hhv]
    rfl
  have small : t.streamVal 0 n.toNat < 2 ^ 64 := (streamVal_lt t 0 _).trans_le (Nat.pow_le_pow_right (by decide) (by omega))
  rw [State.complete_result, State.setResult_result, BitVec.toNat_ofNat, Nat.mod_eq_of_lt small]
  simp only [State.streamVal, Nat.zero_add, hstream, ← start]
  rfl

/-! ### RDUE -/

section
variable {s t : State} {k z : Nat} (hs : s.Readable) (h : Reaches s k t)
include hs h

/-- A run of `z` zeros and the terminating 1, from bit `k` on (R100). -/
theorem leadingZeros_at (left c : Nat) (hz : z ≤ left) (hzeros : ∀ i < z, s.streamBit (k + i) = false)
    (hone : s.streamBit (k + z) = true) (hc : s.CanConsume (k + z + 1)) :
    ∃ u, leadingZeros left c t = .ok (c + z) u ∧ Reaches s (k + z + 1) u := by
  induction z generalizing k t left c with
  | zero =>
    obtain ⟨u, hn, hu⟩ := nextBit_at hs h hc
    refine ⟨u, ?_, hu⟩
    rw [leadingZeros_eq, hn, Res.ok_andThen, show s.streamBit k = true from hone]
    rfl
  | succ z ih =>
    obtain ⟨left, rfl⟩ := Nat.exists_eq_add_of_le' (Nat.one_le_of_lt hz)
    obtain ⟨u, hn, hu⟩ := nextBit_at hs h (canConsume_mono hc (by omega))
    have arith : ∀ i, k + 1 + i = k + (i + 1) := fun i => by omega
    have later := ih hu left (c + 1) (by omega) (fun i hi => by rw [arith]; exact hzeros (i + 1) (by omega))
    rw [arith, Nat.add_assoc c, Nat.add_comm 1 z] at later
    obtain ⟨w, hw, hr⟩ := later hone hc
    refine ⟨w, ?_, hr⟩
    rw [leadingZeros_eq, hn, Res.ok_andThen, show s.streamBit k = false from hzeros 0 (by omega)]
    exact hw

end

/-- RDUE's code at the cursor: `k` zeros, a one and `k` bits of suffix (R100, R101). -/
theorem readUe_readable {s : State} {k : Nat} (hs : s.Readable) (hk : k ≤ 32) (hzeros : ∀ i < k, s.streamBit i = false)
    (hone : s.streamBit k = true) (hc : s.CanConsume (2 * k + 1)) :
    ∃ t, readUe s = .ok (2 ^ k - 1 + s.streamVal (k + 1) k) t ∧ Reaches s (2 * k + 1) t := by
  obtain ⟨u, hz, hu⟩ := leadingZeros_at hs (.refl s) (z := k) kmax 0 hk (fun i hi => by rw [Nat.zero_add]; exact hzeros i hi)
    (by rwa [Nat.zero_add]) (canConsume_mono hc (by omega))
  rw [Nat.zero_add] at hz hu
  have total : k + 1 + k = 2 * k + 1 := by omega
  obtain ⟨t, hr, ht⟩ := readBits_at hs hu k (by rwa [total])
  exact ⟨t, by rw [readUe, hz, Res.ok_andThen, hr, Res.ok_andThen], total ▸ ht⟩

theorem exec_rdue_readable {s : State} {k : Nat} (hs : s.Readable) (hk : k ≤ 32)
    (hzeros : ∀ i < k, s.streamBit i = false) (hone : s.streamBit k = true) (hc : s.CanConsume (2 * k + 1)) :
    ∃ t, exec .rdue s = .next (t.setResult (2 ^ k - 1 + s.streamVal (k + 1) k)).complete ∧ Reaches s (2 * k + 1) t := by
  obtain ⟨t, hr, ht⟩ := readUe_readable hs hk hzeros hone hc
  exact ⟨t, by rw [exec, execRdue, hr, finish], ht⟩

/-- Bits whose value is 0 are zeros. -/
theorem streamBit_eq_false_of_streamVal {s : State} {off n : Nat} (h : s.streamVal off n = 0) :
    ∀ i < n, s.streamBit (off + i) = false := by
  induction n generalizing off with
  | zero => simp
  | succ n ih =>
    rw [streamVal_succ, Nat.add_eq_zero_iff] at h
    obtain ⟨hbit, hrest⟩ := h
    intro i hi
    cases i with
    | zero => simpa using hbit
    | succ i => rw [← Nat.add_assoc, Nat.add_right_comm]; exact ih hrest i (by omega)

/-- The code of `x` with `k = floor(log2 x)`: `k` zeros, a one, and x less the one's weight (R101). -/
theorem code_of_streamVal {s : State} {k x : Nat} (hlo : 2 ^ k ≤ x) (hhi : x < 2 ^ (k + 1))
    (h : s.streamVal 0 (2 * k + 1) = x) :
    (∀ i < k, s.streamBit i = false) ∧ s.streamBit k = true ∧ 2 ^ k + s.streamVal (k + 1) k = x := by
  have split : s.streamVal 0 (2 * k + 1) = s.streamVal 0 k * 2 ^ (k + 1) + s.streamVal k (k + 1) := by
    rw [show 2 * k + 1 = k + (k + 1) by omega, streamVal_add, Nat.zero_add]
  have zero : s.streamVal 0 k = 0 := by
    by_contra hne
    have := Nat.le_mul_of_pos_left (2 ^ (k + 1)) (Nat.pos_of_ne_zero hne)
    omega
  have suffix := streamVal_lt s (k + 1) k
  rw [h, zero, streamVal_succ] at split
  have one : s.streamBit k = true := by
    cases hb : s.streamBit k with
    | true => rfl
    | false =>
      rw [hb] at split
      simp only [Bool.toNat_false] at split
      omega
  rw [one] at split
  refine ⟨fun i hi => ?_, one, ?_⟩
  · have := streamBit_eq_false_of_streamVal zero i hi
    rwa [Nat.zero_add] at this
  · simp only [Bool.toNat_true] at split
    omega

/-- Settles O19: the value of the 2k + 1 bits determines k zeros, the one and the suffix. -/
theorem rdueReturnsEveryValueFromItsCode : Obligations.RdueReturnsEveryValueFromItsCode := by
  intro s v hs hv hval hc
  generalize hk : Nat.log2 (v + 1) = k at hval hc ⊢
  have hlo : 2 ^ k ≤ v + 1 := hk ▸ Nat.log2_self_le (Nat.succ_ne_zero v)
  have hhi : v + 1 < 2 ^ (k + 1) := hk ▸ Nat.lt_log2_self
  have hk32 : k ≤ 32 := by
    have : 2 ^ k < 2 ^ 33 := by omega
    have := (Nat.pow_lt_pow_iff_right (by decide)).1 this
    omega
  obtain ⟨hzeros, hone, hsuffix⟩ := code_of_streamVal hlo hhi hval
  obtain ⟨t, hx, ht⟩ := exec_rdue_readable hs hk32 hzeros hone hc
  refine ⟨_, hx, ?_, ht.moves.halted, ht.consumed⟩
  have : 2 ^ k - 1 + s.streamVal (k + 1) k = v := by omega
  simp only [State.complete_result, State.setResult_result, this, BitVec.toNat_ofNat]
  omega

/-! ### A byte the host has not written -/

/-- Bits that the cache holds, with the budget off: no byte is fetched for them (R61). -/
theorem readBits_cached {s : State} (hb : s.budget = false) {n : Nat} (hn : n ≤ s.cacheBits.toNat) :
    ∃ t, readBits n s = .ok (s.streamVal 0 n) t ∧ t = { s with cacheBits := t.cacheBits, consumed := t.consumed } := by
  induction n generalizing s with
  | zero => exact ⟨s, rfl, rfl⟩
  | succ n ih =>
    have hne : s.cacheBits ≠ 0 := fun h => by simp [h] at hn
    have next := upcoming_countBit hne
    have dec := countBit_cacheBits_toNat hne
    obtain ⟨t, hr, ht⟩ := ih (s := s.countBit) hb (by omega)
    have hval : s.streamVal 0 (n + 1) = s.cacheBit.toNat * 2 ^ n + s.countBit.streamVal 0 n := by
      rw [streamVal_succ]
      simp only [State.streamVal, State.streamBit, next, Nat.zero_add, Nat.add_comm 1, List.getD_cons_succ,
        List.getD_cons_zero]
    refine ⟨t, ?_, by rw [ht]; rfl⟩
    rw [readBits_succ, nextBit, if_neg (by simp [State.overBudget, hb]), if_neg hne, Res.ok_andThen, hr, Res.ok_andThen,
      hval]

/-- The eight bits of a byte have its value (R54). -/
theorem bitsVal_byteBits : ∀ b : Byte, bitsVal (byteBits b) = b.toNat := by decide +kernel

/-- A byte just fetched is the value of the next eight bits. -/
theorem streamVal_fillCache (b : Byte) (s : State) : (s.fillCache b).streamVal 0 8 = b.toNat := by
  rw [← bitsVal_byteBits]
  rfl

/-- A byte not written is delivered as a draw, unless the history could take it out (R49, R56). -/
theorem fetchDelivered_unwritten {s : State} (hlt : s.bytepos.toNat < s.len.toNat) (hlen : s.len.toNat ≤ s.ibufBytes)
    (hnone : s.mem.read s.bytepos.toNat = none) (hlast : s.lastRaw ≠ some 0x00) :
    fetchDelivered s = .ok (Config.freeByte s.draws) (s.draw.takeRaw (Config.freeByte s.draws)) := by
  have kept : s.draw.drops (Config.freeByte s.draws) = false := by
    refine Bool.eq_false_iff.2 fun h => ?_
    obtain ⟨-, h, -⟩ := (drops_iff _ _).1 h
    exact hlast h
  obtain ⟨left, hleft⟩ := Nat.exists_eq_succ_of_ne_zero (Nat.sub_ne_zero_of_lt hlt)
  have hread : memRead s.bytepos.toNat s = .ok (Config.freeByte s.draws) s.draw := by
    simp [memRead, hlt.trans_le hlen, observeByte, hnone]
  rw [fetchDelivered, hleft, fetchLoop, hread, Res.ok_andThen, kept]
  rfl

/-- With an empty cache eight bits are the byte that is fetched (R54, R61). -/
theorem readBits_fetched {s t : State} {b : Byte} (hf : fetchDelivered s = .ok b t) (hb : s.budget = false)
    (hc : s.cacheBits = 0) :
    ∃ u, readBits 8 s = .ok b.toNat u ∧
      u = { t.fillCache b with cacheBits := u.cacheBits, consumed := u.consumed } := by
  have frame := fetchDelivered_fetches s
  rw [hf] at frame
  have hbt : (t.fillCache b).budget = false := frame.budget.trans hb
  have fetches : nextBit s = .ok (t.fillCache b).cacheBit (t.fillCache b).countBit := by
    rw [nextBit, if_neg (by simp [State.overBudget, hb]), if_pos hc, hf]
    rfl
  have cached : nextBit (t.fillCache b) = .ok (t.fillCache b).cacheBit (t.fillCache b).countBit := by
    rw [nextBit, if_neg (by simp only [State.overBudget, hbt]; simp), if_neg (by simp)]
  obtain ⟨u, hr, hu⟩ := readBits_cached hbt (n := 8) le_rfl
  rw [readBits_succ, cached, ← fetches, ← readBits_succ, streamVal_fillCache] at hr
  exact ⟨u, hr, hu⟩

/-- Settles O33: the fetch draws the byte, and its eight bits are RESULT. -/
theorem unwrittenByteIsDelivered : Obligations.UnwrittenByteIsDelivered := by
  intro s hlt hlen hnone hb hc hlast
  obtain ⟨u, hr, hu⟩ := readBits_fetched (fetchDelivered_unwritten hlt hlen hnone hlast) hb hc
  have moved := readBits_moves 8 s
  rw [hr] at moved
  refine ⟨(u.setResult (Config.freeByte s.draws).toNat).complete, ?_, ?_, congrArg State.draws hu,
    congrArg State.bytepos hu, moved.sameRecord⟩
  · rw [exec, execRdbits, show countOperand 8 = 8 from rfl, hr, finish]
  · rw [State.complete_result, State.setResult_result, BitVec.ofNat_toNat]

end Sys2Proof.Machine
end

section
/-! PTL over a readable buffer: the fields of the structure at their places in the stream, and what its commit makes of
them (O23; R107-R115). -/
namespace Sys2Proof.Machine

/-! ### Fields along the stream -/

/-- A one-bit field is its stream bit. -/
theorem ofNat_streamVal_one (s : State) (off : Nat) :
    BitVec.ofNat 1 (s.streamVal off 1) = BitVec.ofBool (s.streamBit off) := by
  rw [streamVal_one]
  cases s.streamBit off <;> rfl

/-- The (profile, level) flags of `m` sub-layers, from stream bit `off` on (R112). -/
def State.streamFlags (s : State) (off m : Nat) : List (BitVec 1 × BitVec 1) :=
  (List.range m).map fun i => (BitVec.ofBool (s.streamBit (off + 2 * i)), BitVec.ofBool (s.streamBit (off + 1 + 2 * i)))

/-- The bits step 7 skips: 88 for each profile flag, 8 for each level flag (R114, R115). -/
def skippedBits (l : List (BitVec 1 × BitVec 1)) : Nat :=
  88 * (l.filter fun p => p.1 = 1).length + 8 * (l.filter fun p => p.2 = 1).length

section
variable {s t : State} {k : Nat} (hs : s.Readable) (h : Reaches s k t)
include hs h

theorem readField_at (w : Nat) (hc : s.CanConsume (k + w)) :
    ∃ u, readField w t = .ok (BitVec.ofNat w (s.streamVal k w)) u ∧ Reaches s (k + w) u := by
  obtain ⟨u, hr, hu⟩ := readBits_at hs h w hc
  exact ⟨u, by rw [readField, hr, Res.ok_andThen], hu⟩

theorem readFields_at (w count : Nat) (hc : s.CanConsume (k + w * count)) :
    ∃ u, readFields w count t = .ok ((List.range count).map fun i => BitVec.ofNat w (s.streamVal (k + w * i) w)) u ∧
      Reaches s (k + w * count) u := by
  induction count generalizing k t with
  | zero => exact ⟨t, rfl, h⟩
  | succ count ih =>
    have arith : ∀ i, k + w * (i + 1) = k + w + w * i := fun i => by ring
    rw [arith] at hc ⊢
    obtain ⟨u, hr, hu⟩ := readField_at hs h w (canConsume_mono hc (by omega))
    obtain ⟨v, hrs, hv⟩ := ih hu hc
    refine ⟨v, ?_, hv⟩
    rw [readFields, hr, Res.ok_andThen, hrs, Res.ok_andThen, List.range_succ_eq_map, List.map_cons, List.map_map]
    simp only [Function.comp_def, Nat.succ_eq_add_one, arith, Nat.mul_zero, Nat.add_zero]

theorem readSubLayerFlags_at (m : Nat) (hc : s.CanConsume (k + 2 * m)) :
    ∃ u, readSubLayerFlags m t = .ok (s.streamFlags k m) u ∧ Reaches s (k + 2 * m) u := by
  induction m generalizing k t with
  | zero => exact ⟨t, rfl, h⟩
  | succ m ih =>
    have arith : ∀ i, k + 2 * (i + 1) = k + 1 + 1 + 2 * i := fun i => by ring
    rw [arith] at hc ⊢
    obtain ⟨u, hp, hu⟩ := readField_at hs h 1 (canConsume_mono hc (by omega))
    obtain ⟨v, hl, hv⟩ := readField_at hs hu 1 (canConsume_mono hc (by omega))
    obtain ⟨w, hr, hw⟩ := ih hv hc
    refine ⟨w, ?_, hw⟩
    rw [ofNat_streamVal_one] at hp hl
    rw [readSubLayerFlags, hp, Res.ok_andThen, hl, Res.ok_andThen, hr, Res.ok_andThen, State.streamFlags,
      State.streamFlags, List.range_succ_eq_map, List.map_cons, List.map_map]
    simp only [Function.comp_def, Nat.succ_eq_add_one, arith, Nat.mul_zero, Nat.add_zero]
    congr 3
    funext i
    congr 3
    omega

/-- A skip that a flag switches on. -/
theorem ite_readBits_at (p : Prop) [Decidable p] (n : Nat) (hc : s.CanConsume (k + if p then n else 0)) :
    ∃ v u, (if p then readBits n t else .ok 0 t) = .ok v u ∧ Reaches s (k + if p then n else 0) u := by
  by_cases hp : p
  · simp only [if_pos hp] at hc ⊢
    obtain ⟨u, hr, hu⟩ := readBits_at hs h n hc
    exact ⟨_, u, hr, hu⟩
  · simp only [if_neg hp]
    exact ⟨0, t, rfl, h⟩

theorem skipSubLayers_at (l : List (BitVec 1 × BitVec 1)) (hc : s.CanConsume (k + skippedBits l)) :
    ∃ u, skipSubLayers l t = .ok () u ∧ Reaches s (k + skippedBits l) u := by
  induction l generalizing k t with
  | nil => exact ⟨t, rfl, h⟩
  | cons p rest ih =>
    obtain ⟨pp, lp⟩ := p
    have total : k + skippedBits ((pp, lp) :: rest) =
        (k + if pp = 1 then 88 else 0) + (if lp = 1 then 8 else 0) + skippedBits rest := by
      simp only [skippedBits, List.filter_cons, decide_eq_true_eq, apply_ite List.length, List.length_cons]
      split_ifs <;> omega
    rw [total] at hc ⊢
    obtain ⟨_, u, hp, hu⟩ := ite_readBits_at hs h (pp = 1) 88 (canConsume_mono hc (by omega))
    obtain ⟨_, v, hl, hv⟩ := ite_readBits_at hs hu (lp = 1) 8 (canConsume_mono hc (by omega))
    obtain ⟨w, hr, hw⟩ := ih hv hc
    exact ⟨w, by rw [skipSubLayers, hp, Res.ok_andThen, hl, Res.ok_andThen, hr], hw⟩

end

/-! ### The whole structure -/

/-- The fields of the structure at the cursor, at their places in the stream (R108-R112). -/
def State.streamPtl (s : State) (m : Nat) : PtlFields where
  ps := BitVec.ofNat 2 (s.streamVal 0 2)
  tf := BitVec.ofNat 1 (s.streamVal 2 1)
  idc := BitVec.ofNat 5 (s.streamVal 3 5)
  compatBytes := (List.range 4).map fun i => s.streamByte (8 + 8 * i)
  cons := (List.range 6).map fun i => s.streamByte (40 + 8 * i)
  lvl := s.streamByte 88
  subLayers := s.streamFlags 96 m

/-- The skipped bits, by R115's counts of flags. -/
theorem skippedBits_streamFlags (s : State) (off m : Nat) :
    skippedBits (s.streamFlags off m) = 88 * s.flagCount off m + 8 * s.flagCount (off + 1) m := by
  have flag : ∀ b : Bool, decide (BitVec.ofBool b = 1) = b := by decide
  simp only [skippedBits, State.streamFlags, State.flagCount, List.filter_map, List.length_map, Function.comp_def, flag]

/-- R115's bits, step by step: the general fields, the flags, the alignment and the sub-layers. -/
theorem ptlBits_eq (s : State) {m : Nat} (hm : m ≤ 7) :
    s.ptlBits m = 96 + 2 * m + (if m ≠ 0 then (8 - m) * 2 else 0) + skippedBits (s.streamFlags 96 m) := by
  rw [skippedBits_streamFlags, State.ptlBits, show 96 + 1 = 97 from rfl]
  by_cases h : m = 0
  · simp [h, State.flagCount]
  · rw [if_neg h, if_pos h]
    omega

theorem parsePtl_readable {s : State} {m : Nat} (hm : m ≤ 7) (hs : s.Readable) (hc : s.CanConsume (s.ptlBits m)) :
    ∃ t, parsePtl m s = .ok (s.streamPtl m) t ∧ Reaches s (s.ptlBits m) t := by
  have total := ptlBits_eq s hm
  rw [total] at hc ⊢
  have upTo : ∀ n, n ≤ 96 → s.CanConsume n := fun n hn => canConsume_mono hc (by omega)
  obtain ⟨s1, e1, r1⟩ := readField_at hs (.refl s) 2 (upTo _ (by decide))
  obtain ⟨s2, e2, r2⟩ := readField_at hs r1 1 (upTo _ (by decide))
  obtain ⟨s3, e3, r3⟩ := readField_at hs r2 5 (upTo _ (by decide))
  obtain ⟨s4, e4, r4⟩ := readFields_at hs r3 8 4 (upTo _ (by decide))
  obtain ⟨s5, e5, r5⟩ := readFields_at hs r4 8 6 (upTo _ (by decide))
  obtain ⟨s6, e6, r6⟩ := readField_at hs r5 8 (upTo _ (by decide))
  obtain ⟨s7, e7, r7⟩ := readSubLayerFlags_at hs r6 m (canConsume_mono hc (by omega))
  obtain ⟨_, s8, e8, r8⟩ := ite_readBits_at hs r7 (m ≠ 0) ((8 - m) * 2) (canConsume_mono hc (by omega))
  obtain ⟨s9, e9, r9⟩ := skipSubLayers_at hs r8 (s.streamFlags 96 m) hc
  refine ⟨s9, ?_, r9⟩
  rw [parsePtl, e1, Res.ok_andThen, e2, Res.ok_andThen, e3, Res.ok_andThen, e4, Res.ok_andThen, e5, Res.ok_andThen, e6,
    Res.ok_andThen, e7, Res.ok_andThen, skipAlignment, e8, Res.ok_andThen, e9, Res.ok_andThen]
  rfl

theorem exec_ptl_readable {s : State} (m : BitVec 3) (hs : s.Readable) (hc : s.CanConsume (s.ptlBits m.toNat)) :
    ∃ t, exec (.ptl m) s = .next (t.commitPtl m (s.streamPtl m.toNat)).complete ∧ Reaches s (s.ptlBits m.toNat) t := by
  obtain ⟨t, hp, ht⟩ := parsePtl_readable (Nat.le_of_lt_succ m.isLt) hs hc
  exact ⟨t, by rw [exec, execPtl, subLayerOperand, hp, finish], ht⟩

/-! ### What the commit makes of the fields -/

theorem byteAt_map_range (f : Nat → Byte) {n j : Nat} (hj : j < n) : byteAt ((List.range n).map f) j = f j := by
  simp [byteAt, hj]

/-- Byte i of the two in PTL_CONS_HI (R35). -/
theorem consHi_extract (f : PtlFields) {i : Nat} (hi : i < 2) : f.consHi.extractLsb' (8 * i) 8 = byteAt f.cons (4 + i) := by
  interval_cases i <;> grind [PtlFields.consHi]

theorem streamByte_toNat (s : State) (off : Nat) : (s.streamByte off).toNat = s.streamVal off 8 :=
  toNat_ofNat_streamVal ..

/-- PTL_SUB's bits are the flags of the sub-layers that are there (R36). -/
theorem subWord_streamFlags (s : State) {m i : Nat} (hm : m ≤ 7) (hi : i < 32) :
    (subWordFrom 0 (s.streamFlags 96 m)).getLsbD i =
      if i < m then s.streamBit (96 + 2 * i)
      else if 8 ≤ i ∧ i < 8 + m then s.streamBit (97 + 2 * (i - 8)) else false := by
  have flags : ∀ j, (s.streamFlags 96 m).getD j (0, 0) =
      if j < m then (BitVec.ofBool (s.streamBit (96 + 2 * j)), BitVec.ofBool (s.streamBit (97 + 2 * j))) else (0, 0) := by
    intro j
    by_cases hj : j < m <;> simp [State.streamFlags, hj]
  rw [subWordFrom_getLsbD _ _ _ hi, flags, flags]
  simp only [Nat.sub_zero, Nat.add_zero]
  by_cases h : i < m
  · simp [h, show ¬8 ≤ i by omega]
  · by_cases h8 : 8 ≤ i ∧ i < 8 + m
    · simp [h, h8, show i - 8 < m by omega]
    · by_cases hle : 8 ≤ i
      · simp [h, hle, show ¬i < 8 + m by omega, show ¬i - 8 < m by omega]
      · simp [h, hle]

/-- Settles O23: PTL parses the stream's fields (`parsePtl_readable`) and commits them to the registers and the
codec-id. -/
theorem ptlParsesTheStructureAndFormatsTheCodecId : Obligations.PtlParsesTheStructureAndFormatsTheCodecId := by
  intro s m hs hc
  obtain ⟨t, hx, ht⟩ := exec_ptl_readable m hs hc
  obtain ⟨hps, htf, hidc, hlvl, hm, hzero⟩ := gen_fields m (s.streamPtl m.toNat)
  obtain ⟨-, hmax⟩ : 11 ≤ s.streamCodecId.length ∧ s.streamCodecId.length ≤ 40 :=
    formatCid_length_bounds _ _ _ _ _ _ (by simp)
  refine ⟨_, hx, ?ps, ?tf, ?idc, ?lvl, hm, hzero, fun j hj => ?compat, fun i hi => ?consLo, fun i hi => ?consHi,
    consHi_reserved _, fun i hi => subWord_streamFlags s (Nat.le_of_lt_succ m.isLt) hi, ?cidlen, cidBytes_length _,
    fun j hj => cidBytes_getD _ _ hj, rfl, ht.advanced hs, rfl, ht.moves.result, ht.moves.sameRecord, ht.moves.ovr,
    ht.moves.sameHostSide⟩ <;> simp only [State.complete_ptlGen, State.commitPtl_ptlGen, State.complete_ptlCompat,
      State.commitPtl_ptlCompat, State.complete_ptlConsLo, State.commitPtl_ptlConsLo, State.complete_ptlConsHi,
      State.commitPtl_ptlConsHi, State.complete_cidlen, State.commitPtl_cidlen]
  case ps => rw [hps]; exact toNat_ofNat_streamVal ..
  case tf => rw [htf]; exact toNat_ofNat_streamVal ..
  case idc => rw [hidc]; exact toNat_ofNat_streamVal ..
  case lvl => rw [hlvl]; exact streamByte_toNat ..
  case compat =>
    have byte : (s.streamPtl m.toNat).compat.extractLsb' (8 * j) 8 = _ :=
      packWord_extract (byteAt (s.streamPtl m.toNat).compatBytes) hj
    rw [byte, State.streamPtl, byteAt_map_range _ hj, streamByte_toNat]
  case consLo =>
    have byte : (s.streamPtl m.toNat).consLo.extractLsb' (8 * i) 8 = _ :=
      packWord_extract (byteAt (s.streamPtl m.toNat).cons) hi
    rw [byte, State.streamPtl, byteAt_map_range _ (by omega), streamByte_toNat]
  case consHi =>
    rw [consHi_extract _ hi, State.streamPtl, byteAt_map_range _ (by omega), streamByte_toNat]
    congr 1
    omega
  case cidlen =>
    have same : (s.streamPtl m.toNat).codecId = s.streamCodecId := rfl
    rw [BitVec.toNat_ofNat, same]
    exact Nat.mod_eq_of_lt (by omega)

end Sys2Proof.Machine
end

section
/-! RDBITS, SKBITS and SKIPL over a readable buffer: the bits that can be consumed are read or skipped, and the cursor
moves over them (O10, O11, O17; R87, R92, R95). -/
namespace Sys2Proof.Machine

/-- RESULT holds a value of at most 64 bits as it is (R26). -/
theorem setResult_result_toNat {v n : Nat} (s : State) (hn : n ≤ 64) (hv : v < 2 ^ n) :
    (s.setResult v).result.toNat = v := by
  rw [State.setResult_result, BitVec.toNat_ofNat]
  exact Nat.mod_eq_of_lt (hv.trans_le (Nat.pow_le_pow_right (by decide) hn))

/-- Settles O10: the read follows the stream (`exec_rdbits_readable`), and its value fits RESULT. -/
theorem rdbitsReturnsTheNextStreamBits : Obligations.RdbitsReturnsTheNextStreamBits := by
  intro s n _ hs hc
  obtain ⟨t, hx, ht⟩ := exec_rdbits_readable n hs hc
  have small : n.toNat ≤ 64 := n.isLt.le
  exact ⟨_, hx, setResult_result_toNat t small (streamVal_lt s 0 _), ht.advanced hs, rfl, ht.moves.sameRecord,
    ht.moves.samePtl, ht.moves.ovr, ht.moves.sameHostSide⟩

/-- Settles O11: the skip follows the stream (`exec_skbits_readable`). -/
theorem skbitsMovesOverTheNextStreamBits : Obligations.SkbitsMovesOverTheNextStreamBits := by
  intro s n _ hs hc
  obtain ⟨t, hx, ht⟩ := exec_skbits_readable n hs hc
  exact ⟨_, hx, ht.moves.result, ht.advanced hs, rfl, ht.moves.sameRecord, ht.moves.samePtl, ht.moves.ovr,
    ht.moves.sameHostSide⟩

/-! ### SKIPL -/

/-- An idle block's command completed: BUSY was 0 already. -/
theorem complete_of_idle {s : State} (h : s.running = none) : s.complete = s := by
  unfold State.complete
  rw [← h]

/-- Skips of an idle block whose bits together can be consumed move the cursor over them (R93, R95). -/
theorem execAll_skbits_reaches (ns : List (BitVec 6)) {s : State} (hrun : s.running = none) (hs : s.Readable)
    (hc : s.CanConsume (ns.map fun k => k.toNat).sum) :
    ∃ t, execAll (ns.map .skbits) s = .next t ∧ Reaches s (ns.map fun k => k.toNat).sum t := by
  induction ns generalizing s with
  | nil => exact ⟨s, rfl, .refl s⟩
  | cons n ns ih =>
    simp only [List.map_cons, List.sum_cons] at hc ⊢
    obtain ⟨u, hx, hu⟩ := exec_skbits_readable n hs (canConsume_mono hc (Nat.le_add_right _ _))
    have idle : u.running = none := hu.moves.running.trans hrun
    rw [complete_of_idle idle] at hx
    obtain ⟨t, hall, ht⟩ := ih idle (hu.readable hs) (hu.canConsume hc)
    exact ⟨t, by rw [execAll, hx]; exact hall, hu.trans ht⟩

/-- The operands of SKIPL n's SKBITS commands (R87). -/
def skipCounts (n : Nat) : List (BitVec 6) :=
  List.replicate (n / 32) 32 ++ if n % 32 ≠ 0 then [BitVec.ofNat 6 (n % 32)] else []

theorem skipl_eq (n : Nat) : skipl n = (skipCounts n).map .skbits := by
  unfold skipl skipCounts
  split <;> simp

/-- The operand left over by the SKBITS 32 commands is below 32. -/
theorem toNat_ofNat_mod_32 (n : Nat) : (BitVec.ofNat 6 (n % 32)).toNat = n % 32 := by
  rw [BitVec.toNat_ofNat]
  omega

/-- SKIPL n's commands skip n bits together (R87). -/
theorem skipCounts_sum (n : Nat) : ((skipCounts n).map fun k => k.toNat).sum = n := by
  have whole : ((List.replicate (n / 32) (32 : BitVec 6)).map fun k => k.toNat).sum = n / 32 * 32 := by simp
  rw [skipCounts, List.map_append, List.sum_append, whole]
  split
  · rw [List.map_singleton, List.sum_singleton, toNat_ofNat_mod_32]
    omega
  · rw [List.map_nil, List.sum_nil]
    omega

/-- Every operand of SKIPL n's commands is in R80's range. -/
theorem countInRange_skipCounts {n : Nat} {k : BitVec 6} (h : k ∈ skipCounts n) : countInRange k = true := by
  rcases List.mem_append.1 h with h | h
  · rw [List.eq_of_mem_replicate h]
    rfl
  · split at h
    · rw [List.mem_singleton.1 h, countInRange, toNat_ofNat_mod_32, ← Bool.decide_and, decide_eq_true_eq]
      omega
    · cases h

/-- Settles O17: SKIPL n is SKBITS commands of n bits together. -/
theorem skiplSkipsItsBits : Obligations.SkiplSkipsItsBits := by
  intro s n _ hrun hs hc
  rw [skipl_eq]
  constructor
  · intro i hi
    obtain ⟨k, hk, rfl⟩ := List.mem_map.1 hi
    exact ⟨countInRange_skipCounts hk, rfl⟩
  · obtain ⟨t, hall, ht⟩ := execAll_skbits_reaches (skipCounts n) hrun hs (by rwa [skipCounts_sum])
    rw [skipCounts_sum] at ht
    exact ⟨t, hall, ht.advanced hs, ht.moves.result, ht.moves.sameRecord⟩

end Sys2Proof.Machine
end

section
/-! What one FetchDelivered does, raw byte by raw byte: it takes at most two (O32; R58, R60). -/
namespace Sys2Proof.Machine

/-- The raw byte `b` is observed and taken; `d` is the draw counter after it was observed. -/
def State.takeObserved (b : Byte) (d : Nat) (s : State) : State := { s with draws := d }.takeRaw b

/-- Below LEN the position does not wrap. -/
theorem takeObserved_bytepos_toNat (b : Byte) (d : Nat) {s : State} (h : s.bytepos.toNat < s.len.toNat) :
    (s.takeObserved b d).bytepos.toNat = s.bytepos.toNat + 1 :=
  takeRaw_bytepos_toNat b s h

/-- Everything FetchDelivered can do (R58, R60): no raw byte is left, one is delivered, or one is dropped and then none
is left or the next one is delivered; only a LEN beyond IBUF lets it stop the model (R50). -/
inductive FetchDoes (s : State) : Res Byte → Prop where
  | pastEnd : FetchDoes s (fetchPastEnd s)
  | delivered (b : Byte) (d : Nat) : s.bytepos.toNat < s.len.toNat →
      FetchDoes s (.ok b (s.takeObserved b d))
  | droppedPastEnd (b : Byte) (d : Nat) : s.bytepos.toNat < s.len.toNat → s.drops b = true →
      FetchDoes s (fetchPastEnd (s.takeObserved b d))
  | droppedDelivered (b c : Byte) (d d' : Nat) : s.bytepos.toNat + 1 < s.len.toNat → s.drops b = true →
      FetchDoes s (.ok c ((s.takeObserved b d).takeObserved c d'))
  | stop (f : Fault) : s.ibufBytes < s.len.toNat → FetchDoes s (.stop f)

/-- One turn of FetchDelivered's loop: the raw byte `b` is taken, and dropped or delivered (R58); outside IBUF the model
stops. -/
theorem fetchLoop_succ (left : Nat) (s : State) :
    (s.ibufBytes ≤ s.bytepos.toNat ∧ ∃ f, fetchLoop (left + 1) s = .stop f) ∨
      ∃ b d, fetchLoop (left + 1) s =
        if s.drops b then fetchLoop left (s.takeObserved b d) else .ok b (s.takeObserved b d) := by
  rw [fetchLoop]
  rcases memRead_cases s.bytepos.toNat s with ⟨hout, h⟩ | ⟨-, b, -, h⟩ | ⟨-, -, h⟩ <;> rw [h]
  · exact .inl ⟨hout, _, rfl⟩
  · exact .inr ⟨b, s.draws, rfl⟩
  · exact .inr ⟨Config.freeByte s.draws, s.draws + 1, rfl⟩

/-- Where no byte would be dropped, the loop takes at most one raw byte (R60). -/
theorem fetchLoop_of_no_drop (left : Nat) (s : State) (h : ∀ b, s.drops b = false) :
    (left = 0 ∧ fetchLoop left s = fetchPastEnd s) ∨
      (0 < left ∧ s.ibufBytes ≤ s.bytepos.toNat ∧ ∃ f, fetchLoop left s = .stop f) ∨
      (0 < left ∧ ∃ b d, fetchLoop left s = .ok b (s.takeObserved b d)) := by
  cases left with
  | zero => exact .inl ⟨rfl, rfl⟩
  | succ left =>
    rcases fetchLoop_succ left s with stop | ⟨b, d, he⟩
    · exact .inr (.inl ⟨Nat.succ_pos _, stop⟩)
    · rw [h b] at he
      exact .inr (.inr ⟨Nat.succ_pos _, b, d, he⟩)

theorem fetchDelivered_does (s : State) : FetchDoes s (fetchDelivered s) := by
  unfold fetchDelivered
  cases hl : s.len.toNat - s.bytepos.toNat with
  | zero => exact .pastEnd
  | succ left =>
    rcases fetchLoop_succ left s with ⟨hout, f, he⟩ | ⟨b, d, he⟩ <;> rw [he]
    · exact .stop f (by omega)
    · split
      · rename_i hd
        have noDrop : ∀ c, (s.takeObserved b d).drops c = false := fun c => drops_takeRaw { s with draws := d } b c hd
        rcases fetchLoop_of_no_drop left (s.takeObserved b d) noDrop with
          ⟨-, hp⟩ | ⟨hpos, hout, f, hp⟩ | ⟨hpos, c, d', hp⟩ <;> rw [hp]
        · exact .droppedPastEnd b d (by omega) hd
        · refine .stop f ?_
          rw [takeObserved_bytepos_toNat b d (by omega)] at hout
          exact Nat.lt_of_le_of_lt hout (by omega)
        · exact .droppedDelivered b c d d' (by omega) hd
      · exact .delivered b d (by omega)

/-- Only 0x03 is dropped (R56). -/
theorem eq_of_drops {s : State} {b : Byte} (h : s.drops b = true) : b = 0x03 := ((drops_iff s b).1 h).1

/-- Settles O32: by what FetchDelivered does (`fetchDelivered_does`). -/
theorem fetchTakesAtMostTwoRawBytes : Obligations.FetchTakesAtMostTwoRawBytes := by
  intro s
  have does := fetchDelivered_does s
  refine ⟨fun b t h => ?delivers, fun e t h => ?raises, fun b b' hd => ⟨eq_of_drops hd, drops_takeRaw s b b' hd⟩⟩
  case delivers =>
    generalize fetchDelivered s = r at h does
    cases does with
    | pastEnd =>
      rcases fetchPastEnd_cases s with ⟨-, hp⟩ | ⟨-, hp⟩ <;> cases hp.symm.trans h
      exact ⟨le_rfl, Nat.le_add_right _ _, le_max_left _ _, fun h2 => by simp at h2⟩
    | delivered b d hlt =>
      cases h
      have pos := takeObserved_bytepos_toNat b d hlt
      exact ⟨by omega, by omega, by omega, by omega⟩
    | droppedPastEnd b' d hlt hd =>
      have pos : (s.takeObserved b' d).setPadded.bytepos.toNat = _ := takeObserved_bytepos_toNat b' d hlt
      rcases fetchPastEnd_cases (s.takeObserved b' d) with ⟨-, hp⟩ | ⟨-, hp⟩ <;> cases hp.symm.trans h
      exact ⟨by omega, by omega, by omega, by omega⟩
    | droppedDelivered b' c d d' hlt hd =>
      cases h
      have first := takeObserved_bytepos_toNat b' d (s := s) (by omega)
      have second := takeObserved_bytepos_toNat b d' (s := s.takeObserved b' d) (by rwa [first])
      exact ⟨by omega, by omega, by omega, fun _ => ⟨rfl, eq_of_drops hd, rfl⟩⟩
    | stop f hlen => cases h
  case raises =>
    obtain ⟨rfl, hstrict⟩ := fetchLoop_raise _ s t e h
    refine ⟨rfl, hstrict, ?_⟩
    generalize fetchDelivered s = r at h does
    cases does with
    | pastEnd =>
      rcases fetchPastEnd_cases s with ⟨-, hp⟩ | ⟨-, hp⟩ <;> cases hp.symm.trans h
      exact ⟨le_rfl, Nat.le_succ _, rfl⟩
    | delivered b d hlt => cases h
    | droppedPastEnd b d hlt hd =>
      have pos := takeObserved_bytepos_toNat b d hlt
      rcases fetchPastEnd_cases (s.takeObserved b d) with ⟨-, hp⟩ | ⟨-, hp⟩ <;> cases hp.symm.trans h
      exact ⟨by omega, by omega, rfl⟩
    | droppedDelivered b c d d' hlt hd => cases h
    | stop f hlen => cases h

end Sys2Proof.Machine
end

section
/-! How many bits each part of a command counts, completing or raising (O38; R55), and that in permissive mode with the
budget off every command ends without BufferExhausted, over unwritten IBUF too (O13, O22, O26; R96, R103, R126). -/
namespace Sys2Proof.Machine

/-! ### Bits counted -/

/-- `t`'s CONSUMED is `s`'s with at least `lo` and at most `hi` bits counted (R29). -/
def Counted (s : State) (lo hi : Nat) (t : State) : Prop :=
  ∃ c, lo ≤ c ∧ c ≤ hi ∧ t.consumed = satAdd s.consumed c

theorem Counted.of_eq {s t : State} {n : Nat} (h : t.consumed = satAdd s.consumed n) : Counted s n n t :=
  ⟨n, le_rfl, le_rfl, h⟩

theorem Counted.refl (s : State) : Counted s 0 0 s := .of_eq (satAdd_zero _).symm

theorem Counted.mono {s t : State} {lo hi lo' hi' : Nat} (h : Counted s lo hi t) (hlo : lo' ≤ lo) (hhi : hi ≤ hi') :
    Counted s lo' hi' t := by
  obtain ⟨c, h1, h2, hc⟩ := h
  exact ⟨c, hlo.trans h1, h2.trans hhi, hc⟩

theorem Counted.trans {s t u : State} {a b c d : Nat} (h : Counted s a b t) (k : Counted t c d u) :
    Counted s (a + c) (b + d) u := by
  obtain ⟨m, hlo, hhi, hm⟩ := h
  obtain ⟨n, klo, khi, hn⟩ := k
  exact ⟨m + n, Nat.add_le_add hlo klo, Nat.add_le_add hhi khi, by rw [hn, hm, satAdd_satAdd]⟩

/-- CONSUMED saturates, so it grows by no more than the bits counted (R29). -/
theorem Counted.toNat_le {s t : State} {lo hi : Nat} (h : Counted s lo hi t) :
    t.consumed.toNat ≤ s.consumed.toNat + hi := by
  obtain ⟨c, -, hc, he⟩ := h
  rw [he, satAdd_toNat]
  omega

/-- A part that started in `s` has counted `lo` to `hi` bits if it completes, and at most `hi` if it raises. -/
def Res.Counts {α : Type} (s : State) (lo hi : Nat) : Res α → Prop
  | .ok _ t => Counted s lo hi t
  | .raise _ t => Counted s 0 hi t
  | .stop _ => True

theorem Res.Counts.mono {α : Type} {s : State} {lo hi lo' hi' : Nat} {r : Res α} (h : r.Counts s lo hi)
    (hlo : lo' ≤ lo) (hhi : hi ≤ hi') : r.Counts s lo' hi' := by
  cases r with
  | ok a t => exact Counted.mono h hlo hhi
  | raise e t => exact Counted.mono h le_rfl hhi
  | stop f => trivial

/-- The bits of two parts, one after the other, are counted together. -/
theorem Res.Counts.andThen {α β : Type} {s : State} {a b c d : Nat} {r : Res α} {f : α → State → Res β}
    (h : r.Counts s a b) (hf : ∀ x t, r = .ok x t → (f x t).Counts t c d) :
    (r.andThen f).Counts s (a + c) (b + d) := by
  cases r with
  | ok x t =>
    have rest := hf x t rfl
    rw [Res.ok_andThen]
    cases hr : f x t with rw [hr] at rest
    | ok y u => exact Counted.trans h rest
    | raise e u => exact (Counted.trans h rest).mono (Nat.zero_le _) le_rfl
    | stop x => trivial
  | raise e t => exact Counted.mono h le_rfl (Nat.le_add_right b d)
  | stop x => trivial

theorem ok_counts {α : Type} (a : α) (s : State) : (Res.ok a s).Counts s 0 0 := Counted.refl s

theorem nextBit_counts (s : State) : (nextBit s).Counts s 1 1 := by
  cases h : nextBit s with
  | ok b t => exact .of_eq (nextBit_consumed h)
  | raise e t =>
    have none : Counted s 0 0 t := ⟨0, le_rfl, le_rfl, (nextBit_raise_consumed h).trans (satAdd_zero _).symm⟩
    exact none.mono le_rfl (Nat.zero_le 1)
  | stop f => trivial

theorem readBits_counts (n : Nat) (s : State) : (readBits n s).Counts s n n := by
  induction n generalizing s with
  | zero => exact ok_counts 0 s
  | succ n ih =>
    rw [readBits_succ, Nat.add_comm n 1]
    exact (nextBit_counts s).andThen fun b t _ => (ih t).andThen fun w u _ => ok_counts _ u

theorem readField_counts (w : Nat) (s : State) : (readField w s).Counts s w w :=
  (readBits_counts w s).andThen fun _ t _ => ok_counts _ t

theorem readFields_counts (w count : Nat) (s : State) : (readFields w count s).Counts s (w * count) (w * count) := by
  induction count generalizing s with
  | zero => exact ok_counts [] s
  | succ count ih =>
    rw [Nat.mul_succ, Nat.add_comm]
    exact (readField_counts w s).andThen fun _ t _ => (ih t).andThen fun _ u _ => ok_counts _ u

/-- A zero run counts its zeros and the terminating 1, or the zero beyond those allowed (R100). -/
theorem leadingZeros_counts (left k : Nat) (s : State) : (leadingZeros left k s).Counts s 1 (left + 1) := by
  induction left generalizing k s with
  | zero =>
    rw [leadingZeros_eq]
    refine (nextBit_counts s).andThen (c := 0) (d := 0) fun b t _ => ?_
    cases b
    · exact Counted.refl t
    · exact ok_counts k t
  | succ left ih =>
    rw [leadingZeros_eq, Nat.add_comm (left + 1) 1]
    refine (nextBit_counts s).andThen (c := 0) fun b t _ => ?_
    cases b
    · exact (ih (k + 1) t).mono (Nat.zero_le 1) le_rfl
    · exact (ok_counts k t).mono le_rfl (Nat.zero_le _)

/-- RDUE counts at most KMAX zeros, the terminating 1 and as many bits of suffix (R104). -/
theorem readUe_counts (s : State) : (readUe s).Counts s 1 65 := by
  refine (leadingZeros_counts kmax 0 s).andThen (c := 0) (d := 32) fun k t hk => ?_
  have hle : k ≤ 32 := by
    obtain ⟨-, hle, -⟩ := leadingZeros_ok hk
    simpa [kmax] using hle
  refine Res.Counts.mono ((readBits_counts k t).andThen fun _ u _ => ok_counts _ u) (Nat.zero_le _) ?_
  omega

theorem readSubLayerFlags_counts (m : Nat) (s : State) : (readSubLayerFlags m s).Counts s (2 * m) (2 * m) := by
  induction m generalizing s with
  | zero => exact ok_counts [] s
  | succ m ih =>
    rw [show 2 * (m + 1) = 1 + (1 + 2 * m) by omega]
    exact (readField_counts 1 s).andThen fun _ t _ => (readField_counts 1 t).andThen fun _ u _ =>
      (ih u).andThen fun _ v _ => ok_counts _ v

/-- A skip that a flag switches on counts its bits or none. -/
theorem ite_readBits_counts (p : Prop) [Decidable p] (n : Nat) (s : State) :
    (if p then readBits n s else .ok 0 s).Counts s (if p then n else 0) (if p then n else 0) := by
  split
  · exact readBits_counts n s
  · exact ok_counts 0 s

/-- Each sub-layer's skip is at most 88 and 8 bits (R114). -/
theorem skipSubLayers_counts {m : Nat} (l : List (BitVec 1 × BitVec 1)) (hl : l.length = m) (s : State) :
    (skipSubLayers l s).Counts s 0 (96 * m) := by
  subst hl
  induction l generalizing s with
  | nil => exact ok_counts () s
  | cons p rest ih =>
    obtain ⟨pp, lp⟩ := p
    rw [List.length_cons, show 96 * (rest.length + 1) = 88 + (8 + 96 * rest.length) by omega]
    have skip : ∀ (q : Prop) [Decidable q] (n : Nat) (t : State),
        (if q then readBits n t else .ok 0 t).Counts t 0 n := fun q _ n t =>
      (ite_readBits_counts q n t).mono (Nat.zero_le _) (by split <;> omega)
    exact (skip (pp = 1) 88 s).andThen fun _ t _ => (skip (lp = 1) 8 t).andThen fun _ u _ => ih u

/-- PTL counts 96 bits, or 112 and at most 96 more for each of m sub-layers (R115). -/
theorem parsePtl_counts {m : Nat} (hm : m ≤ 7) (s : State) :
    (parsePtl m s).Counts s (if m = 0 then 96 else 112) (if m = 0 then 96 else 112 + 96 * m) := by
  refine Res.Counts.mono ((readField_counts 2 s).andThen fun _ s1 _ => (readField_counts 1 s1).andThen fun _ s2 _ =>
    (readField_counts 5 s2).andThen fun _ s3 _ => (readFields_counts 8 4 s3).andThen fun _ s4 _ =>
    (readFields_counts 8 6 s4).andThen fun _ s5 _ => (readField_counts 8 s5).andThen fun _ s6 _ =>
    (readSubLayerFlags_counts m s6).andThen fun l s7 hl =>
    (ite_readBits_counts (m ≠ 0) ((8 - m) * 2) s7).andThen fun _ s8 _ =>
    (skipSubLayers_counts l (readSubLayerFlags_length hl) s8).andThen fun _ s9 _ => ok_counts _ s9) ?_ ?_ <;>
  · by_cases h : m = 0
    · simp [h]
    · simp only [if_neg h, if_pos h]
      omega

/-- A command that ends has counted no more bits than what it ran, if its final writes leave CONSUMED. -/
theorem finish_counted {α : Type} {s t : State} {lo hi : Nat} {op : BitVec 4} {commit : α → State → State} {r : Res α}
    (h : r.Counts s lo hi) (hcommit : ∀ a u, (commit a u).consumed = u.consumed) (hf : finish op commit r = .next t) :
    Counted s 0 hi t := by
  cases r with
  | ok a u =>
    cases hf
    obtain ⟨c, -, hc, he⟩ := h
    exact ⟨c, Nat.zero_le c, hc, (hcommit a u).trans he⟩
  | raise e u =>
    cases hf
    exact h
  | stop f => cases hf

/-- PTL's operand is 0 exactly as a number (R82, R89). -/
theorem operand_eq_zero_iff (m : BitVec 3) : m = 0 ↔ m.toNat = 0 := BitVec.toNat_eq

/-- Settles O38: what each command's reads count (`readBits_counts`, `readUe_counts`, `parsePtl_counts`). -/
theorem everyCommandConsumesBoundedBits : Obligations.EveryCommandConsumesBoundedBits := by
  intro i s t h
  cases i with
  | init =>
    cases h
    simp
  | rdbits n => exact (finish_counted (commit := State.setResult) (readBits_counts n.toNat s) (fun _ _ => rfl) h).toNat_le
  | skbits n => exact (finish_counted (readBits_counts n.toNat s) (fun _ _ => rfl) h).toNat_le
  | rdue => exact (finish_counted (commit := State.setResult) (readUe_counts s) (fun _ _ => rfl) h).toNat_le
  | ptl m =>
    have counted := finish_counted (commit := State.commitPtl m) (parsePtl_counts (Nat.le_of_lt_succ m.isLt) s)
      (fun _ _ => rfl) h
    simp only [bitBound, operand_eq_zero_iff]
    exact counted.toNat_le

/-! ### Permissive mode with the budget off -/

/-- The engine's reads have a meaning: LEN <= IBUF_BYTES (R25, R50). -/
def State.LenFits (s : State) : Prop := s.len.toNat ≤ s.ibufBytes

/-- A fetch stops the model only where LEN reaches beyond IBUF (R50). -/
theorem fetchDelivered_stop {s : State} {f : Fault} (h : fetchDelivered s = .stop f) : s.ibufBytes < s.len.toNat := by
  have ends : ∀ u : State, fetchPastEnd u ≠ .stop f := fun u hu => by
    rcases fetchPastEnd_cases u with ⟨-, hp⟩ | ⟨-, hp⟩ <;> cases hp.symm.trans hu
  have does := fetchDelivered_does s
  generalize fetchDelivered s = r at h does
  cases does with
  | pastEnd => exact absurd h (ends s)
  | delivered b d hlt => cases h
  | droppedPastEnd b d hlt hd => exact absurd h (ends _)
  | droppedDelivered b c d d' hlt hd => cases h
  | stop g hlen => exact hlen

/-- Where LEN lies inside IBUF, NextBit never stops the model (R50). -/
theorem nextBit_lenFits : Keeps State.LenFits nextBit := by
  intro s hs
  have kept : ∀ t, Moves s t → t.LenFits := fun t ht => by
    rw [State.LenFits, ht.len, ht.ibufBytes]
    exact hs
  have moved := nextBit_moves s
  cases h : nextBit s with rw [h] at moved
  | ok b t => exact kept t moved
  | raise e t => exact kept t moved
  | stop f =>
    rcases nextBit_cases s with ⟨-, hn⟩ | ⟨-, -, hn⟩ | ⟨-, -, ⟨b, t, -, hn⟩ | ⟨t, -, -, hn⟩ | ⟨g, hd, -⟩⟩
    iterate 4 cases hn.symm.trans h
    exact absurd hs (Nat.not_le.2 (fetchDelivered_stop hd))

theorem Res.Holds.of_eq {α : Type} {P : State → Prop} {r : Res α} {a : α} {t : State} (h : r.Holds P)
    (hr : r = .ok a t) : P t := by
  rw [hr] at h
  exact h

/-- A part that does not stop the model either completes or raises one of its errors. -/
theorem Res.Safe.ok_or_raise {α : Type} {P : State → Prop} {Q : Raise → Prop} {r : Res α} (h : r.Safe P)
    (hr : r.RaisesOnly Q) : (∃ a t, r = .ok a t) ∨ ∃ e t, r = .raise e t ∧ Q e := by
  cases r with
  | ok a t => exact .inl ⟨a, t, rfl⟩
  | raise e t => exact .inr ⟨e, t, rfl, hr⟩
  | stop f => exact h.elim

/-- STRICT = 0, BUDGET = 0, and LEN inside IBUF (R16, R25, R126). -/
structure State.Permissive (s : State) : Prop where
  strict : s.strict = false
  budget : s.budget = false
  fits : s.LenFits

/-- In permissive mode with the budget off no bit raises (R126). -/
theorem State.Permissive.not_exhausts {s : State} (h : s.Permissive) (e : Raise) : ¬Exhausts s e := by
  simp [Exhausts, h.strict, h.budget]

/-- What raises BufferExhausted only completes in permissive mode with the budget off (R126). -/
theorem State.Permissive.completes {α : Type} {s : State} {f : State → Res α} (h : s.Permissive)
    (hf : Keeps State.LenFits f) (hr : (f s).RaisesOnly (Exhausts s)) : ∃ a t, f s = .ok a t := by
  rcases (hf s h.fits).ok_or_raise hr with ok | ⟨e, t, -, he⟩
  · exact ok
  · exact absurd he (h.not_exhausts e)

/-- Settles O13: the reads raise BufferExhausted only, so they complete. -/
theorem permissiveReadsAlwaysComplete : Obligations.PermissiveReadsAlwaysComplete := by
  intro s n hstrict hbudget hfits
  have permissive : s.Permissive := ⟨hstrict, hbudget, hfits⟩
  obtain ⟨v, t, hr⟩ := permissive.completes (readBits_keeps nextBit_lenFits n.toNat) (readBits_raises n.toNat s)
  have moved := (readBits_moves n.toNat s).of_eq hr
  have count := readBits_consumed hr
  refine ⟨⟨(t.setResult v).complete, ?_, moved.sameRecord, rfl, ?_, count⟩,
    ⟨t.complete, ?_, moved.sameRecord, rfl, moved.result, count⟩⟩
  · rw [exec, execRdbits, countOperand, hr, finish]
  · rw [State.complete_result, setResult_result_toNat t n.isLt.le (readBits_lt hr)]
    exact readBits_lt hr
  · rw [exec, execSkbits, countOperand, hr, finish]

/-- One bit does not raise MalformedExpGolombCode (R125). -/
theorem nextBit_ne_malformed (s t : State) : nextBit s ≠ .raise .malformedExpGolombCode t := by
  intro h
  have raised := (nextBit_raises s).of_eq h
  simp [Exhausts] at raised

/-- A zero run that is too long has counted every zero allowed and the one after them (R100, R104). -/
theorem leadingZeros_malformed {left k : Nat} {s t : State}
    (h : leadingZeros left k s = .raise .malformedExpGolombCode t) : t.consumed = satAdd s.consumed (left + 1) := by
  induction left generalizing k s with
  | zero =>
    rw [leadingZeros_eq] at h
    rcases Res.andThen_eq_raise.1 h with h | ⟨b, u, hb, h⟩
    · exact absurd h (nextBit_ne_malformed s t)
    · cases b
      · cases h
        exact nextBit_consumed hb
      · cases h
  | succ left ih =>
    rw [leadingZeros_eq] at h
    rcases Res.andThen_eq_raise.1 h with h | ⟨b, u, hb, h⟩
    · exact absurd h (nextBit_ne_malformed s t)
    · cases b
      · rw [ih h, nextBit_consumed hb, satAdd_satAdd, Nat.add_comm 1]
      · cases h

theorem readUe_malformed {s t : State} (h : readUe s = .raise .malformedExpGolombCode t) :
    t.consumed = satAdd s.consumed 33 := by
  rcases Res.andThen_eq_raise.1 h with h | ⟨k, u, -, h⟩
  · exact leadingZeros_malformed h
  · rcases Res.andThen_eq_raise.1 h with h | ⟨w, v, -, h⟩
    · have raised := (readBits_raises k u).of_eq h
      simp [Exhausts] at raised
    · cases h

/-- A code of k zeros counts 2k + 1 bits, and its value lies in [2^k - 1, 2^(k+1) - 2] (R101, R104). -/
theorem readUe_ok {s t : State} {v : Nat} (h : readUe s = .ok v t) :
    ∃ k ≤ 32, t.consumed = satAdd s.consumed (2 * k + 1) ∧ 2 ^ k - 1 ≤ v ∧ v ≤ 2 ^ (k + 1) - 2 := by
  obtain ⟨k, u, hz, h⟩ := Res.andThen_eq_ok.1 h
  obtain ⟨suffix, w, hr, h⟩ := Res.andThen_eq_ok.1 h
  cases h
  obtain ⟨-, hk, hu⟩ := leadingZeros_ok hz
  have hlt := readBits_lt hr
  refine ⟨k, by simpa [kmax] using hk, ?_, Nat.le_add_right _ _, ?_⟩
  · rw [readBits_consumed hr, hu, satAdd_satAdd]
    congr 1
    omega
  · rw [Nat.pow_succ]
    omega

/-- Settles O22: RDUE completes with a code's value (`readUe_ok`), or raises for too many zeros (`readUe_malformed`). -/
theorem permissiveRdueAlwaysEnds : Obligations.PermissiveRdueAlwaysEnds := by
  intro s hstrict hbudget hfits
  have permissive : s.Permissive := ⟨hstrict, hbudget, hfits⟩
  have moved := readUe_moves s
  rcases (readUe_keeps nextBit_lenFits s hfits).ok_or_raise (readUe_raises s) with ⟨v, t, hr⟩ | ⟨e, t, hr, he⟩ <;>
    rw [hr] at moved
  · obtain ⟨k, hk, hcount, hlo, hhi⟩ := readUe_ok hr
    have value : (t.setResult v).complete.result.toNat = v :=
      setResult_result_toNat (n := k + 1) t (by omega) (hhi.trans_lt (Nat.sub_lt (Nat.two_pow_pos _) (by decide)))
    refine ⟨(t.setResult v).complete, by rw [exec, execRdue, hr, finish], rfl,
      .inl ⟨moved.sameRecord, k, hk, hcount, ?_⟩⟩
    rw [value]
    exact ⟨hlo, hhi⟩
  · obtain rfl : e = .malformedExpGolombCode := he.resolve_left (permissive.not_exhausts e)
    have count := readUe_malformed hr
    exact ⟨t.faultEntry .malformedExpGolombCode Instr.rdue.op, by rw [exec, execRdue, hr, finish], rfl,
      .inr ⟨rfl, rfl, count, rfl, moved.result⟩⟩

/-- Settles O26: PTL raises BufferExhausted only, so it completes, and `parsePtl_counts` bounds its bits. -/
theorem permissivePtlAlwaysCompletes : Obligations.PermissivePtlAlwaysCompletes := by
  intro s m hstrict hbudget hfits
  have permissive : s.Permissive := ⟨hstrict, hbudget, hfits⟩
  obtain ⟨f, t, hp⟩ := permissive.completes (parsePtl_keeps nextBit_lenFits m.toNat) (parsePtl_raises m.toNat s)
  have moved := (parsePtl_moves m.toNat s).of_eq hp
  have counted := parsePtl_counts (Nat.le_of_lt_succ m.isLt) s
  rw [hp] at counted
  obtain ⟨c, hlo, hhi, hc⟩ := counted
  obtain ⟨-, -, -, -, hm, -⟩ := gen_fields m f
  refine ⟨(t.commitPtl m f).complete, by rw [exec, execPtl, subLayerOperand, hp, finish], moved.sameRecord, rfl, rfl,
    moved.result, hm, c, hc, ?_⟩
  rw [ne_eq, operand_eq_zero_iff]
  split at hlo <;> rename_i h0
  · rw [if_pos h0] at hhi
    exact .inl ⟨h0, le_antisymm hhi hlo⟩
  · rw [if_neg h0] at hhi
    exact .inr ⟨h0, hlo, hhi⟩

end Sys2Proof.Machine
end

section
/-! What a command does not see: an edit of the state that NextBit's reads do not reach is carried through every command
(O41; R50, R70, R155). -/
namespace Sys2Proof.Machine

/-! ### Parts of a command as what they are built from -/

/-- The parts of a command that are built from NextBit, the only way a command consumes bits (R2, R10). -/
inductive Reads : {α : Type} → (State → Res α) → Prop where
  | ok {α : Type} (a : α) : Reads (Res.ok a)
  | raise {α : Type} (e : Raise) : Reads (Res.raise e : State → Res α)
  | nextBit : Reads nextBit
  | andThen {α β : Type} {f : State → Res α} {g : α → State → Res β} : Reads f → (∀ a, Reads (g a)) →
      Reads fun s => (f s).andThen g

theorem readBits_reads (n : Nat) : Reads (readBits n) := by
  induction n with
  | zero => exact .ok 0
  | succ n ih =>
    rw [funext (readBits_succ n)]
    exact Reads.nextBit.andThen fun _ => ih.andThen fun _ => .ok _

theorem readField_reads (w : Nat) : Reads (readField w) := (readBits_reads w).andThen fun _ => .ok _

theorem readFields_reads (w count : Nat) : Reads (readFields w count) := by
  induction count with
  | zero => exact .ok []
  | succ count ih => exact (readField_reads w).andThen fun _ => ih.andThen fun _ => .ok _

theorem leadingZeros_reads (left k : Nat) : Reads (leadingZeros left k) := by
  induction left generalizing k with
  | zero =>
    rw [funext (leadingZeros_eq 0 k)]
    refine Reads.nextBit.andThen fun b => ?_
    cases b
    · exact .raise _
    · exact .ok k
  | succ left ih =>
    rw [funext (leadingZeros_eq (left + 1) k)]
    refine Reads.nextBit.andThen fun b => ?_
    cases b
    · exact ih (k + 1)
    · exact .ok k

theorem readUe_reads : Reads readUe :=
  (leadingZeros_reads kmax 0).andThen fun k => (readBits_reads k).andThen fun _ => .ok _

theorem readSubLayerFlags_reads (m : Nat) : Reads (readSubLayerFlags m) := by
  induction m with
  | zero => exact .ok []
  | succ m ih =>
    exact (readField_reads 1).andThen fun _ => (readField_reads 1).andThen fun _ => ih.andThen fun _ => .ok _

theorem ite_readBits_reads (p : Prop) [Decidable p] (n : Nat) : Reads fun s => if p then readBits n s else .ok 0 s := by
  split
  · exact readBits_reads n
  · exact .ok 0

theorem skipSubLayers_reads (l : List (BitVec 1 × BitVec 1)) : Reads (skipSubLayers l) := by
  induction l with
  | nil => exact .ok ()
  | cons p rest ih =>
    obtain ⟨pp, lp⟩ := p
    exact (ite_readBits_reads (pp = 1) 88).andThen fun _ => (ite_readBits_reads (lp = 1) 8).andThen fun _ => ih

theorem parsePtl_reads (m : Nat) : Reads (parsePtl m) :=
  (readField_reads 2).andThen fun _ => (readField_reads 1).andThen fun _ => (readField_reads 5).andThen fun _ =>
  (readFields_reads 8 4).andThen fun _ => (readFields_reads 8 6).andThen fun _ => (readField_reads 8).andThen fun _ =>
  (readSubLayerFlags_reads m).andThen fun l => (ite_readBits_reads (m ≠ 0) ((8 - m) * 2)).andThen fun _ =>
  (skipSubLayers_reads l).andThen fun _ => .ok _

/-! ### The byte MemRead returns -/

theorem memRead_outside {a : Nat} {s : State} (h : s.ibufBytes ≤ a) : memRead a s = .stop (.ibufIndexOutside a) := by
  rw [memRead, if_neg (Nat.not_lt.2 h)]

theorem memRead_written {a : Nat} {s : State} {b : Byte} (h : a < s.ibufBytes) (hb : s.mem.read a = some b) :
    memRead a s = .ok b s := by
  rw [memRead, if_pos h, observeByte, hb]

theorem memRead_unwritten {a : Nat} {s : State} (h : a < s.ibufBytes) (hb : s.mem.read a = none) :
    memRead a s = .ok (Config.freeByte s.draws) s.draw := by
  rw [memRead, if_pos h, observeByte, hb]

/-! ### Edits that reads do not see -/

/-- The outcome with its state edited. -/
def Res.mapState {α : Type} (g : State → State) : Res α → Res α
  | .ok a s => .ok a (g s)
  | .raise e s => .raise e (g s)
  | .stop f => .stop f

/-- Where `I` holds, no read of a bit sees the edit `g`: it leaves the cursor, the registers and the controls, it commutes
with every move of the cursor, and the byte at BYTEPOS is observed as before. -/
structure Unseen (I : State → Prop) (g : State → State) : Prop where
  rest : ∀ s, g s = { s with
    mem := (g s).mem, running := (g s).running, rdata := (g s).rdata, inputs := (g s).inputs, draws := (g s).draws }
  takeRaw : ∀ b s, g (s.takeRaw b) = (g s).takeRaw b
  setPadded : ∀ s, g s.setPadded = (g s).setPadded
  fillCache : ∀ b s, g (s.fillCache b) = (g s).fillCache b
  countBit : ∀ s, g s.countBit = (g s).countBit
  memRead : ∀ s, I s → s.bytepos.toNat < s.len.toNat →
    memRead s.bytepos.toNat (g s) = (memRead s.bytepos.toNat s).mapState g
  moves : ∀ s t, I s → Moves s t → I t

section
variable {I : State → Prop} {g : State → State} (h : Unseen I g)
include h

theorem Unseen.fetchPastEnd (s : State) : fetchPastEnd (g s) = (fetchPastEnd s).mapState g := by
  have strict : (g s).strict = s.strict := by rw [h.rest]
  unfold Machine.fetchPastEnd
  rw [strict, ← h.setPadded]
  split <;> rfl

theorem Unseen.fetchLoop (left : Nat) (s : State) (hs : I s) (hl : left ≤ s.len.toNat - s.bytepos.toNat) :
    fetchLoop left (g s) = (fetchLoop left s).mapState g := by
  induction left generalizing s with
  | zero => exact h.fetchPastEnd s
  | succ left ih =>
    have hlt : s.bytepos.toNat < s.len.toNat := by omega
    have bytepos : (g s).bytepos = s.bytepos := by rw [h.rest]
    rw [Machine.fetchLoop, Machine.fetchLoop, bytepos, h.memRead s hs hlt]
    have taken : ∀ (b : Byte) (s' : State), Moves s s' → s'.bytepos = s.bytepos →
        (if (g s').drops b then Machine.fetchLoop left ((g s').takeRaw b) else .ok b ((g s').takeRaw b)) =
          (if s'.drops b then Machine.fetchLoop left (s'.takeRaw b) else .ok b (s'.takeRaw b)).mapState g := by
      intro b s' hm hb
      have hlt' : s'.bytepos.toNat < s'.len.toNat := by rwa [hb, hm.len]
      have drops : (g s').drops b = s'.drops b := by rw [h.rest]; rfl
      rw [drops, ← h.takeRaw]
      split
      · refine ih (s'.takeRaw b) (h.moves _ _ hs (hm.trans (takeRaw_moves b s' hlt'))) ?_
        rw [takeRaw_bytepos_toNat b s' hlt', State.takeRaw_len, hb, hm.len]
        omega
      · rfl
    rcases memRead_cases s.bytepos.toNat s with ⟨-, hr⟩ | ⟨-, b, -, hr⟩ | ⟨-, -, hr⟩ <;> rw [hr]
    · rfl
    · exact taken b s (.refl s) rfl
    · exact taken _ s.draw (draw_moves s) rfl

theorem Unseen.nextBit (s : State) (hs : I s) : nextBit (g s) = (nextBit s).mapState g := by
  have budget : (g s).overBudget = s.overBudget := by rw [h.rest]; rfl
  have bits : (g s).cacheBits = s.cacheBits := by rw [h.rest]
  have cached : ∀ u : State, (g u).cacheBit = u.cacheBit := fun u => by rw [h.rest]; rfl
  have fetched : fetchDelivered (g s) = (fetchDelivered s).mapState g := by
    have left : (g s).len.toNat - (g s).bytepos.toNat = s.len.toNat - s.bytepos.toNat := by rw [h.rest]
    rw [fetchDelivered, left]
    exact h.fetchLoop _ s hs le_rfl
  rw [Machine.nextBit, Machine.nextBit, budget, bits, fetched]
  split
  · rfl
  · split
    · cases fetchDelivered s with
      | ok b t =>
        simp only [Res.mapState, Res.ok_andThen]
        rw [← h.fillCache, cached, h.countBit]
      | raise e t => rfl
      | stop f => rfl
    · rw [cached, ← h.countBit]
      rfl

/-- The edit is carried through every part of a command. -/
theorem Reads.commutes {α : Type} {f : State → Res α} (hf : Reads f) :
    ∀ s, I s → f (g s) = (f s).mapState g ∧ (f s).Holds I := by
  induction hf with
  | ok a => exact fun s hs => ⟨rfl, hs⟩
  | raise e => exact fun s hs => ⟨rfl, hs⟩
  | nextBit => exact fun s hs => ⟨h.nextBit s hs, (nextBit_moves s).mono fun t => h.moves s t hs⟩
  | @andThen α β f k _ _ ihf ihk =>
    intro s hs
    obtain ⟨he, hI⟩ := ihf s hs
    simp only [he]
    cases hr : f s with rw [hr] at hI
    | ok a t => exact ihk a t hI
    | raise e t => exact ⟨rfl, hI⟩
    | stop x => exact ⟨rfl, trivial⟩

end

/-- The edit `g` made before a command ends is the edit `g'` made after it (R76, R128). -/
structure CarriedToEnd (g g' : State → State) : Prop where
  complete : ∀ s, (g s).complete = g' s.complete
  faultEntry : ∀ e op s, (g s).faultEntry e op = g' (s.faultEntry e op)
  initParse : ∀ s, (g s).initParse = g s.initParse
  setResult : ∀ v s, (g s).setResult v = g (s.setResult v)
  commitPtl : ∀ m f s, (g s).commitPtl m f = g (s.commitPtl m f)

theorem finish_mapState {α : Type} {g g' : State → State} (h : CarriedToEnd g g') {op : BitVec 4}
    {commit : α → State → State} (hcommit : ∀ a s, commit a (g s) = g (commit a s)) {r : Res α} {t : State}
    (hf : finish op commit r = .next t) : finish op commit (r.mapState g) = .next (g' t) := by
  cases r with
  | ok a u =>
    cases hf
    rw [Res.mapState, finish, hcommit, h.complete]
  | raise e u =>
    cases hf
    rw [Res.mapState, finish, h.faultEntry]
  | stop f => cases hf

/-- A command does what it did, on the edited state. -/
theorem exec_edited {I : State → Prop} {g g' : State → State} (hu : Unseen I g) (he : CarriedToEnd g g') {i : Instr}
    {s t : State} (hs : I s) (h : exec i s = .next t) : exec i (g s) = .next (g' t) := by
  have reads : ∀ {α : Type} {f : State → Res α}, Reads f → f (g s) = (f s).mapState g := fun hf =>
    ((hf.commutes hu) s hs).1
  cases i with
  | init =>
    cases h
    rw [exec, execInit, he.initParse, he.complete]
  | rdbits n =>
    rw [exec, execRdbits, reads (readBits_reads _)]
    exact finish_mapState he he.setResult h
  | skbits n =>
    rw [exec, execSkbits, reads (readBits_reads _)]
    exact finish_mapState he (commit := fun _ t => t) (fun _ _ => rfl) h
  | rdue =>
    rw [exec, execRdue, reads readUe_reads]
    exact finish_mapState he he.setResult h
  | ptl m =>
    rw [exec, execPtl, reads (parsePtl_reads _)]
    exact finish_mapState he (he.commitPtl m) h

/-! ### An IBUF byte that is not ahead -/

/-- IBUF[a] holds `v` (R52). -/
def State.setByte (a : Nat) (v : Byte) (s : State) : State := { s with mem := s.mem.write a v }

/-- IBUF[a] is not among the raw bytes still to fetch (R50, R70). -/
def State.NotAhead (a : Nat) (s : State) : Prop := a < s.bytepos.toNat ∨ s.len.toNat ≤ a

theorem setByte_unseen (a : Nat) (v : Byte) : Unseen (State.NotAhead a) (State.setByte a v) where
  rest _ := rfl
  takeRaw _ _ := rfl
  setPadded _ := rfl
  fillCache _ _ := rfl
  countBit _ := rfl
  memRead s hs hlt := by
    have other : s.bytepos.toNat ≠ a := by
      rcases hs with h | h <;> omega
    have read : (s.setByte a v).mem.read s.bytepos.toNat = s.mem.read s.bytepos.toNat :=
      Memory.read_write_other _ _ _ _ other
    rcases memRead_cases s.bytepos.toNat s with ⟨hout, hr⟩ | ⟨hin, b, hb, hr⟩ | ⟨hin, hb, hr⟩ <;> rw [hr]
    · exact memRead_outside hout
    · exact memRead_written hin (read.trans hb)
    · exact memRead_unwritten hin (read.trans hb)
  moves s t hs hm := by
    have := hm.bytepos
    rw [State.NotAhead, hm.len]
    exact hs.imp_left fun h => by omega

/-- A command's end neither reads nor writes IBUF. -/
theorem setByte_carriedToEnd (a : Nat) (v : Byte) : CarriedToEnd (State.setByte a v) (State.setByte a v) where
  complete _ := rfl
  faultEntry _ _ _ := rfl
  initParse _ := rfl
  setResult _ _ := rfl
  commitPtl _ _ _ := rfl

/-- Settles O41: a byte that is not ahead is not seen (`setByte_unseen`), so `exec_edited` carries it through. -/
theorem bytesAlreadyFetchedAreNotReadAgain : Obligations.BytesAlreadyFetchedAreNotReadAgain := by
  intro i s t a v ha h
  exact exec_edited (setByte_unseen a v) (setByte_carriedToEnd a v) ha h

end Sys2Proof.Machine
end

section
/-! Steps of the engine and of the host around a command: the engine runs the decoded command (O5), only misshapen
accesses are refused (O52), every accepted command completes (O56), and a mnemonic with its wait runs its command
(O57). -/
namespace Sys2Proof.Machine

/-! ### The engine's turn -/

/-- Settles O5: the step is the engine's turn, and the turn runs the accepted word. -/
theorem engineTurnRunsTheDecodedCommand : Obligations.EngineTurnRunsTheDecodedCommand := by
  intro s w i hr hd
  have turn : ∀ u : State, u.running = some w → engineTurn u = exec i u := fun u hu => by
    simp only [engineTurn, hu, runWord, hd]
  refine ⟨fun rest hin => ?_, fun hin => ?_⟩ <;> rw [step, hin]
  · exact turn (s.setInputs rest) hr
  · exact turn s hr

/-- A command that ends leaves the block idle (R76). -/
theorem exec_running {i : Instr} {s t : State} (h : exec i s = .next t) : t.running = none := by
  by_cases hi : i = .init
  · subst hi
    cases h
    rfl
  · obtain ⟨-, -, hrun, -⟩ := commandFrame i s t hi h
    exact hrun

/-- From a legal cursor the engine's turn leaves the block idle: the command completes or takes its fault (R76, R127). -/
theorem engineTurn_idle {s : State} (h : s.CursorInv) : ∃ t, engineTurn s = .next t ∧ t.running = none := by
  rcases engineTurn_cases s with ⟨hr, he⟩ | ⟨w, e, -, -, he⟩ | ⟨w, i, -, -, he⟩ <;> rw [he]
  · exact ⟨s, rfl, hr⟩
  · exact ⟨_, rfl, rfl⟩
  · obtain ⟨t, hx, -⟩ := exec_cursorInv i h
    exact ⟨t, hx, exec_running hx⟩

/-! ### Accesses that are refused -/

/-- The access is not 32 bits wide, or its offset is not word-aligned (R51). -/
def Access.Misshapen : Access → Prop
  | .read width o => width ≠ 32 ∨ o.toNat % 4 ≠ 0
  | .write width o _ => width ≠ 32 ∨ o.toNat % 4 ≠ 0

/-- An offset is word-aligned when its bits 1:0 are zero (R51). -/
theorem low_bits_eq_zero_iff (o : Offset) : o.extractLsb' 0 2 = 0 ↔ o.toNat % 4 = 0 := by
  refine ⟨fun h => ?_, aligned_low_bits⟩
  have low := congrArg BitVec.toNat h
  simpa using low

theorem hostAccess_refused_iff (a : Access) (s : State) : (∃ r, hostAccess a s = .refused r) ↔ a.Misshapen := by
  cases a with
  | read width o =>
    simp only [hostAccess, Access.Misshapen, ne_eq, low_bits_eq_zero_iff]
    by_cases hw : width = 32 <;> by_cases ho : o.toNat % 4 = 0 <;> simp [hw, ho]
  | write width o v =>
    simp only [hostAccess, Access.Misshapen, ne_eq, low_bits_eq_zero_iff]
    by_cases hw : width = 32 <;> by_cases ho : o.toNat % 4 = 0 <;> simp [hw, ho]

/-- The engine's turn is never refused. -/
theorem engineTurn_not_refused (s : State) (r : Refusal) : engineTurn s ≠ .refused r := by
  rcases engineTurn_cases s with ⟨-, he⟩ | ⟨w, e, -, -, he⟩ | ⟨w, i, -, -, he⟩ <;> rw [he]
  · simp
  · simp
  · exact exec_not_refused i s r

/-- A step is refused exactly when it makes a misshapen access (R157). -/
theorem step_refused_iff (s : State) :
    (∃ r, step s = .refused r) ↔ ∃ a rest, s.inputs = .access a :: rest ∧ a.Misshapen := by
  rcases step_cases s with ⟨hin, hs⟩ | ⟨rest, hin, hs⟩ | ⟨a, rest, hin, hs⟩ | ⟨level, rest, hin, hs⟩ <;> rw [hs, hin]
  · simp [engineTurn_not_refused]
  · simp [engineTurn_not_refused]
  · simp [hostAccess_refused_iff]
  · simp

/-- Settles O52: `step_refused_iff`, with the access written out as a read or a write. -/
theorem onlyMisshapenAccessesAreRefused : Obligations.OnlyMisshapenAccessesAreRefused := by
  intro s
  rw [step_refused_iff]
  constructor
  · rintro ⟨a, rest, hin, hm⟩
    cases a with
    | read width o => exact ⟨rest, width, o, 0, .inl hin, hm⟩
    | write width o v => exact ⟨rest, width, o, v, .inr hin, hm⟩
  · rintro ⟨rest, width, o, v, hin | hin, hm⟩
    · exact ⟨.read width o, rest, hin, hm⟩
    · exact ⟨.write width o v, rest, hin, hm⟩

/-! ### Runs -/

theorem run_succ {s u : State} (k : Nat) (h : step s = .next u) : core.run (k + 1) s = core.run k u := by
  have stepped : core.step s = .next u := h
  simp only [Host.Core.run, stepped]

/-- What the host asks of a busy block: an aligned 32-bit access (R51). -/
def Input.Aligned (i : Input) : Prop :=
  (∃ a, a.toNat % 4 = 0 ∧ i = .access (.read 32 a)) ∨ ∃ a v, a.toNat % 4 = 0 ∧ i = .access (.write 32 a v)

/-- An aligned access to a busy block is made, and the command waits on (R151, R152). -/
theorem step_busy_access {s : State} {i : Input} {rest : List Input} (hb : s.busy = true) (hin : s.inputs = i :: rest)
    (hi : i.Aligned) : ∃ t, step s = .next t ∧ t.running = s.running ∧ t.inputs = rest := by
  rcases hi with ⟨a, ha, rfl⟩ | ⟨a, v, ha, rfl⟩
  · rw [step_read hin ha]
    obtain ⟨v, d, -, hk⟩ := hostRead_keeps (targetOf s.ibufBytes a) (s.setInputs rest)
    rw [hk]
    exact ⟨_, rfl, rfl, rfl⟩
  · rw [step_write hin ha]
    have busy : (s.setInputs rest).busy = true := hb
    rcases hostWrite_cases (targetOf s.ibufBytes a) v (s.setInputs rest) with hw | ⟨-, -, -, hw⟩ | ⟨-, idle, -⟩ |
      ⟨-, idle, -⟩ | ⟨-, idle, -⟩ | ⟨-, idle, -⟩
    · exact ⟨_, rfl, by rw [hw]; rfl, by rw [hw]; rfl⟩
    · exact ⟨_, rfl, by rw [hw]; rfl, by rw [hw]; rfl⟩
    all_goals exact absurd (busy.symm.trans idle) (by decide)

/-- Settles O56: accesses leave the command waiting and keep the invariant, until the engine's turn, or the end of the
inputs, runs it. -/
theorem everyAcceptedCommandCompletes : Obligations.EveryAcceptedCommandCompletes := by
  intro s
  generalize hl : s.inputs = l
  induction l generalizing s with
  | nil =>
    intro hinv _ _
    obtain ⟨-, -, hpos, hcur, hcount, -⟩ := hinv
    obtain ⟨t, ht, hrun⟩ := engineTurn_idle (s := s) ⟨hpos, hcur, hcount⟩
    exact ⟨1, t, le_rfl, by rw [run_succ 0 (by rw [step, hl, ht])]; rfl, hrun⟩
  | cons i rest ih =>
    intro hinv hbusy hall
    rcases hall i (List.mem_cons_self ..) with rfl | hi
    · obtain ⟨-, -, hpos, hcur, hcount, -⟩ := hinv
      obtain ⟨t, ht, hrun⟩ := engineTurn_idle (s := s.setInputs rest) ⟨hpos, hcur, hcount⟩
      have turn : step s = .next t := by rw [step, hl]; exact ht
      exact ⟨1, t, Nat.le_add_left 1 _, by rw [run_succ 0 turn]; rfl, hrun⟩
    · obtain ⟨u, hs, hrun, hin⟩ := step_busy_access hbusy hl hi
      have busy : u.busy = true := by rw [State.busy, hrun]; exact hbusy
      obtain ⟨k, t, hk, ht, hidle⟩ := ih u hin (everyStepKeepsTheInvariant s u hinv hs) busy
        fun j hj => hall j (List.mem_cons_of_mem _ hj)
      exact ⟨k + 1, t, Nat.succ_le_succ hk, by rw [run_succ k hs, ht], hidle⟩

/-! ### A mnemonic with its wait -/

/-- The word of a well-formed command decodes to it (R77, R79-R82). -/
theorem decode_encode {i : Instr} (h : i.wellFormed = true) : decode (encode i) = .ok i := by
  obtain ⟨hop, harg, hz⟩ : Laws.EncodedFields.Statement i := Laws.fields_of_word i.arg i.op
  rw [decode, hop, harg, hz]
  cases i with
  | init => rfl
  | rdbits n => simp [Instr.op, Instr.arg, show countInRange n = true from h]
  | skbits n => simp [Instr.op, Instr.arg, show countInRange n = true from h]
  | rdue => rfl
  | ptl m =>
    have high : (0#3 ++ m).extractLsb' 3 3 = 0 := by decide +revert
    have low : (0#3 ++ m).extractLsb' 0 3 = m := by decide +revert
    simp [Instr.op, Instr.arg, high, low]

/-- What the host's accesses around a command change, besides accepting it: the accepted word, `rdata`, what comes next
and the draw counter. -/
def State.atBorder (w : Option Word) (v : Word) (l : List Input) (d : Nat) (s : State) : State :=
  { s with running := w, rdata := v, inputs := l, draws := d }

/-- Over written bytes no read draws, so no command sees what the border holds (R49, R50). -/
theorem atBorder_unseen (w : Option Word) (v : Word) (l : List Input) (d : Nat) :
    Unseen State.Readable (State.atBorder w v l d) where
  rest _ := rfl
  takeRaw _ _ := rfl
  setPadded _ := rfl
  fillCache _ _ := rfl
  countBit _ := rfl
  memRead s hs hlt := by
    obtain ⟨hlen, hw⟩ := hs
    have written := (aheadWritten_iff s).1 hw 0 (Nat.sub_pos_of_lt hlt)
    obtain ⟨b, hb⟩ := Option.isSome_iff_exists.1 written
    have inside := hlt.trans_le hlen
    rw [memRead_written inside hb]
    exact memRead_written inside hb
  moves s t hs hm := by
    obtain ⟨hlen, hw⟩ := hs
    have pos := hm.bytepos
    refine ⟨by rw [hm.len, hm.ibufBytes]; exact hlen, (aheadWritten_iff t).2 fun i hi => ?_⟩
    rw [hm.len] at hi
    have written := (aheadWritten_iff s).1 hw (t.bytepos.toNat - s.bytepos.toNat + i) (by omega)
    rwa [show s.bytepos.toNat + (t.bytepos.toNat - s.bytepos.toNat + i) = t.bytepos.toNat + i by omega, ← hm.mem]
      at written

/-- A command that ends has no accepted word left, whichever was accepted (R76). -/
theorem atBorder_carriedToEnd (w : Option Word) (v : Word) (l : List Input) (d : Nat) :
    CarriedToEnd (State.atBorder w v l d) (State.atBorder none v l d) where
  complete _ := rfl
  faultEntry _ _ _ := rfl
  initParse _ := rfl
  setResult _ _ := rfl
  commitPtl _ _ _ := rfl

/-- One STATUS poll while the command runs: it reads a draw (R88, R152). -/
theorem step_poll {s : State} {rest : List Input} (hb : s.busy = true) (hin : s.inputs = rd statusOffset :: rest) :
    step s = .next { s with
      inputs := rest, rdata := busyStatusWord (Config.freeWord s.draws), draws := s.draws + 1 } := by
  have busy : (s.setInputs rest).busy = true := hb
  have named : targetOf s.ibufBytes statusOffset = .status := rfl
  rw [step_read hin (by decide), named, hostRead, if_pos busy]
  rfl

/-- Polls while the command runs leave all but `rdata`, the inputs and the draw counter (R88, R152). -/
theorem run_polls (polls k : Nat) {s : State} {rest : List Input} (hb : s.busy = true)
    (hin : s.inputs = List.replicate polls (rd statusOffset) ++ rest) :
    ∃ v, core.run (polls + k) s = core.run k (s.atBorder s.running v rest (s.draws + polls)) := by
  induction polls generalizing s with
  | zero =>
    have same : s.atBorder s.running s.rdata rest s.draws = s := by
      rw [State.atBorder, show rest = s.inputs from hin.symm]
    exact ⟨s.rdata, by rw [Nat.zero_add, Nat.add_zero, same]⟩
  | succ polls ih =>
    obtain ⟨v, hv⟩ := ih (s := { s with
      inputs := List.replicate polls (rd statusOffset) ++ rest,
      rdata := busyStatusWord (Config.freeWord s.draws), draws := s.draws + 1 }) hb rfl
    refine ⟨v, ?_⟩
    rw [Nat.succ_add, show s.draws + (polls + 1) = s.draws + 1 + polls by omega]
    exact (run_succ _ (step_poll hb hin)).trans hv

/-- The engine's turn, whatever the border holds besides, ends in the state the command alone leaves (R76). -/
theorem step_engine_atBorder {s t : State} {w : Word} {i : Instr} (v : Word) (rest : List Input) (d : Nat)
    (hd : decode w = .ok i) (hs : s.Readable) (hx : exec i s = .next t) :
    step (s.atBorder (some w) v (.engine :: rest) d) = .next (t.atBorder none v rest d) := by
  have ⟨turn, _⟩ := engineTurnRunsTheDecodedCommand (s.atBorder (some w) v (.engine :: rest) d) w i rfl hd
  rw [turn rest rfl]
  exact exec_edited (s := s) (atBorder_unseen (some w) v rest d) (atBorder_carriedToEnd _ _ _ _) hs hx

/-- A STATUS read of an idle block returns STATUS (R17). -/
theorem step_status_idle {s : State} {rest : List Input} (hr : s.running = none)
    (hin : s.inputs = rd statusOffset :: rest) :
    step s = .next { s with inputs := rest, rdata := statusWord s } := by
  have named : targetOf s.ibufBytes statusOffset = .status := rfl
  rw [step_read_idle hr hin (by decide), named]
  rfl

theorem atBorder_of_idle {s : State} (h : s.running = none) (v : Word) (l : List Input) (d : Nat) :
    s.atBorder none v l d = { s with rdata := v, inputs := l, draws := d } := by
  rw [State.atBorder, ← h]

/-- Settles O57: the accesses before the engine's turn change only the border (`run_polls`), which the command does not
see (`step_engine_atBorder`), and the last read returns the idle block's STATUS. -/
theorem polledMnemonicRunsItsCommand : Obligations.PolledMnemonicRunsItsCommand := by
  intro s t i polls rest hwf hr hh hrst hs hx hin
  have idle := exec_running hx
  generalize hw : List.replicate polls (rd statusOffset) ++ (.engine :: rd statusOffset :: rest) = waits
  have issued : s.inputs = .access (.write 32 0x00C (encode i)) :: waits := by
    rw [hin, mnemonic, List.cons_append, List.append_assoc, ← hw]
    rfl
  have ⟨accepted, _⟩ := cmdWriteIsAcceptedOrDroppedWhileHalted s (encode i) waits hr hrst issued
  obtain ⟨v, polled⟩ := run_polls polls 2 (s := { s with inputs := waits, running := some (encode i) }) rfl hw.symm
  have ran := step_engine_atBorder v (rd statusOffset :: rest) (s.draws + polls) (decode_encode hwf) hs hx
  rw [atBorder_of_idle idle] at ran
  calc core.run (polls + 3) s
    _ = core.run (polls + 2) _ := run_succ _ (accepted (.inl hh))
    _ = core.run 2 (s.atBorder (some (encode i)) v (.engine :: rd statusOffset :: rest) (s.draws + polls)) := polled
    _ = core.run 1 _ := run_succ 1 ran
    _ = core.run 0 _ := run_succ 0 (step_status_idle idle rfl)

end Sys2Proof.Machine
end

section
/-! Decoding and encoding a CMD word: the round trip both ways (O1, O2), the words Decode refuses (O3) and the words the
rules write out (O4). -/
namespace Sys2Proof.Machine

/-! ### Words that decode -/

/-- Settles O1: a command's word has its OP, its ARG and Z = 0, and Decode on these fields is that command
(`decode_encode`). -/
theorem decodeOfEncodeIsTheCommand : Obligations.DecodeOfEncodeIsTheCommand :=
  fun _ => decode_encode

/-- A PTL argument with ARG[5:3] = 0 is its low three bits (R82). -/
theorem ptlArg_eq_of_high (arg : BitVec 6) (h : arg.extractLsb' 3 3 = 0) : arg = 0#3 ++ arg.extractLsb' 0 3 := by
  decide +revert

/-- A word that decodes has the command's fields, and the operand is in range (R77, R79-R82). -/
theorem fields_of_decode {w : Word} {i : Instr} (h : decode w = .ok i) :
    i.wellFormed = true ∧ zField w = 0 ∧ argField w = i.arg ∧ opField w = i.op := by
  simp only [decode] at h
  split_ifs at h with hz init arg0 rdbits count skbits count rdue arg0 ptl high <;> cases h
  · exact ⟨rfl, not_not.1 hz, arg0, init⟩
  · exact ⟨count, not_not.1 hz, rfl, rdbits⟩
  · exact ⟨count, not_not.1 hz, rfl, skbits⟩
  · exact ⟨rfl, not_not.1 hz, arg0, rdue⟩
  · exact ⟨rfl, not_not.1 hz, ptlArg_eq_of_high _ high, ptl⟩

/-- Settles O2: a word is its three fields put together (`word_eq_fields`), and a word that decodes has the command's
fields (`fields_of_decode`). -/
theorem onlyItsOwnWordDecodesToACommand : Obligations.OnlyItsOwnWordDecodesToACommand := by
  intro w i h
  obtain ⟨hwf, hz, harg, hop⟩ := fields_of_decode h
  exact ⟨hwf, by rw [word_eq_fields w, hz, harg, hop, encode]; rfl⟩

/-! ### Words that Decode refuses -/

/-- Field Z is the word without its low ten bits (R75). -/
theorem zField_eq_zero_iff (w : Word) : zField w = 0 ↔ w >>> 10 = 0 := by
  rw [zField, ← BitVec.toNat_inj, ← BitVec.toNat_inj, BitVec.extractLsb'_toNat, BitVec.toNat_ushiftRight]
  have := w.isLt
  simp [Nat.shiftRight_eq_div_pow]
  omega

/-- The operands RDBITS and SKBITS refuse (R83). -/
theorem countInRange_eq_false_iff (arg : BitVec 6) : countInRange arg = false ↔ arg = 0 ∨ 32 < arg.toNat := by
  decide +revert

/-- ARG[5:3] of PTL is the argument without its low three bits (R82). -/
theorem ptlHigh_eq_zero_iff (arg : BitVec 6) : arg.extractLsb' 3 3 = 0 ↔ arg >>> 3 = 0 := by
  decide +revert

/-- OP is reserved, and then no command's, or names one of the five commands (R78). -/
theorem op_cases (op : BitVec 4) :
    ((op = 0x0 ∨ 0x6 ≤ op.toNat) ∧ ¬op = 0x1 ∧ ¬op = 0x2 ∧ ¬op = 0x3 ∧ ¬op = 0x4 ∧ ¬op = 0x5) ∨
      op = 0x1 ∨ op = 0x2 ∨ op = 0x3 ∨ op = 0x4 ∨ op = 0x5 := by
  decide +revert

/-- A command with a condition on its ARG is refused when the condition fails. -/
theorem exists_error_ite_iff (c : Prop) [Decidable c] (i : Instr) (e : IllegalWord) :
    (∃ e', (if c then .ok i else .error e : Except IllegalWord Instr) = .error e') ↔ ¬c := by
  by_cases hc : c <;> simp [hc]

/-- Settles O3: with Z = 0, Decode's branch is the one of its OP, and there it refuses by ARG alone
(`exists_error_ite_iff`). -/
theorem illegalWordsAreExactlyThese : Obligations.IllegalWordsAreExactlyThese := by
  intro w
  rw [ne_eq, ← zField_eq_zero_iff, ← countInRange_eq_false_iff, ne_eq (argField w >>> 3), ← ptlHigh_eq_zero_iff,
    ← or_assoc (a := opField w = 0x0)]
  simp only [decode]
  by_cases hz : zField w = 0
  case neg => exact iff_of_true ⟨_, if_pos hz⟩ (.inl hz)
  rw [if_neg (not_not.2 hz)]
  rcases op_cases (opField w) with ⟨reserved, h1, h2, h3, h4, h5⟩ | named
  · refine iff_of_true ⟨.reservedOp (opField w), ?_⟩ (.inr (.inl reserved))
    simp only [h1, h2, h3, h4, h5, if_false]
  · rcases named with op | op | op | op | op <;> simp [hz, op, exists_error_ite_iff]

/-- Settles O4: Decode evaluated on each word. -/
theorem wordsWrittenInTheSpecDecode : Obligations.WordsWrittenInTheSpecDecode :=
  ⟨rfl, rfl, rfl, rfl, rfl, rfl, rfl, rfl, rfl⟩

end Sys2Proof.Machine
end

section
/-! The bit-cursor commands beside their reads: the document's pair (O42), INIT again (O9), SKBITS against RDBITS (O12),
BufferExhausted at the first bit that cannot be consumed (O14), and reads and skips in parts (O15, O16; R90-R96). -/
namespace Sys2Proof.Machine

/-! ### The document's pair -/

/-- Settles O42: CONSUMED and CACHE_BITS make whole bytes, and CACHE_BITS of the last one are not consumed yet. -/
theorem cursorPairIsConsumedByEight : Obligations.CursorPairIsConsumedByEight := by
  intro s ⟨_, _, _, ⟨hbits, _⟩, ⟨hwhole, _⟩, _⟩ hsat
  have whole := hwhole hsat
  unfold State.cursorPair
  by_cases hc : s.cacheBits = 0
  · have empty : s.cacheBits.toNat = 0 := by rw [hc]; rfl
    rw [if_pos hc, Prod.mk.injEq]
    omega
  · have some : s.cacheBits.toNat ≠ 0 := fun h => hc (BitVec.eq_of_toNat_eq h)
    rw [if_neg hc, Prod.mk.injEq]
    omega

/-! ### INIT -/

/-- The initial parse state, idle, is kept by INIT (R48, R90). -/
theorem exec_init_initParse (s : State) : exec .init s.initParse.complete = .next s.initParse.complete := rfl

/-- Settles O9: what INIT leaves is the initial parse state, idle, and so is what reset leaves. -/
theorem initAgainChangesNothing : Obligations.InitAgainChangesNothing := by
  refine ⟨fun s t h => ?_, exec_init_initParse State.reset⟩
  cases h
  exact exec_init_initParse s

/-! ### SKBITS and RDBITS -/

/-- Settles O12: both end what the same read of bits leaves, which has not touched RESULT (`readBits_moves`). -/
theorem skbitsIsRdbitsWithoutTheResult : Obligations.SkbitsIsRdbitsWithoutTheResult := by
  intro s t n hh h
  have moved := readBits_moves n.toNat s
  rw [exec, execRdbits, countOperand] at h
  rw [exec, execSkbits, countOperand]
  cases hr : readBits n.toNat s with rw [hr] at h moved
  | ok v u =>
    cases h
    have unhalted : (u.setResult v).complete.halted = false := moved.halted.trans hh
    rw [if_neg (Bool.eq_false_iff.1 unhalted), ← moved.result]
    rfl
  | raise e u =>
    cases h
    rw [← moved.result]
    rfl
  | stop f => cases h

/-! ### The first bit that cannot be consumed -/

/-- Raw bytes of which none is delivered are none at all, or one dropped 0x03 (R56, R60). -/
theorem unescape_eq_nil {h2 h1 : Option Byte} {l : List Byte} (h : unescape h2 h1 l = []) : l = [] ∨ l = [0x03] := by
  rcases l with _ | ⟨b, _ | ⟨c, rest⟩⟩
  · exact .inl rfl
  · rw [unescape_singleton] at h
    split at h
    · rename_i hd
      exact .inr (by rw [hd.1])
    · cases h
  · simp only [unescape] at h
    split_ifs at h with hd hd'
    obtain ⟨-, hc, -⟩ := hd'
    rw [hd.1] at hc
    simp at hc

/-- After bits that could be consumed, the budget check fails exactly where the fault's KIND would be 1 (R62, R133). -/
theorem Reaches.overBudget {s t : State} {j : Nat} (h : Reaches s j t) (hc : s.CanConsume j) :
    t.overBudget = s.failKind j := by
  rw [State.overBudget, State.failKind, h.moves.budget, h.moves.len, h.consumed, satAdd_toNat]
  cases hb : s.budget with
  | false => rfl
  | true =>
    have room := hc.2 hb
    have small := s.len.isLt
    have count := s.consumed.isLt
    rw [Bool.true_and, Bool.true_and, decide_eq_decide]
    omega

/-- Where bit `j` fails, but not by the budget, strict mode's stream ends at it (R58). -/
theorem upcoming_length_of_failsAt {s : State} {j : Nat} (h : s.FailsAt j) (hk : s.failKind j = false) :
    s.strict = true ∧ s.upcoming.length = j := by
  obtain ⟨⟨hstrict, hbudget⟩, hno⟩ := h
  have inBudget : s.budget = true → j + 1 ≤ 8 * s.len.toNat - s.consumed.toNat := fun hb => by
    simp only [State.failKind, hb, Bool.true_and, decide_eq_false_iff_not] at hk
    omega
  have strictEnds : ¬(s.strict = true → j + 1 ≤ s.upcoming.length) := fun hs => hno ⟨hs, inBudget⟩
  obtain ⟨hs, hlt⟩ := Classical.not_imp.1 strictEnds
  exact ⟨hs, Nat.le_antisymm (Nat.le_of_not_lt hlt) (hstrict hs)⟩

/-- No stream bit is left only where CACHE is empty and no byte is delivered any more (R54). -/
theorem cursor_empty_of_upcoming_eq_nil {s : State} (h : s.upcoming = []) :
    s.cacheBits = 0 ∧ s.delivered s.rawAhead.length = [] := by
  refine ⟨by_contra fun hc => ?_, ?_⟩
  · rw [upcoming_countBit hc] at h
    cases h
  · rw [upcoming_eq, List.append_eq_nil_iff, List.flatMap_eq_nil_iff] at h
    refine List.eq_nil_iff_forall_not_mem.2 fun b hb => ?_
    have bits := h.2 b hb
    cases bits

/-- In strict mode, with no byte to be delivered any more, a fetch takes the raw bytes left and faults (R58). -/
theorem fetchDelivered_strictEnd {s : State} (hs : s.Readable) (hst : s.strict = true)
    (hnone : s.delivered s.rawAhead.length = []) :
    ∃ t, fetchDelivered s = .raise .strictEnd t ∧ TookRaw s s.rawAhead.length t ∧ t.padded = s.padded := by
  have frame := fetchDelivered_fetches s
  obtain ⟨r, t, htook, hpad, -, ⟨b, -, hd⟩ | ⟨hf, -, rfl⟩⟩ := fetchLoop_readable _ s hs rfl
  · have fewer := delivered_length_mono s htook.count
    rw [hd, hnone] at fewer
    simp at fewer
  · rw [← fetchDelivered] at hf
    rw [hf] at frame
    rcases fetchPastEnd_cases t with ⟨-, hp⟩ | ⟨hpad, hp⟩ <;> rw [hp] at hf frame
    · exact ⟨t, hf, htook, hpad⟩
    · have strict : t.strict = s.strict := frame.strict
      rw [hpad, hst] at strict
      cases strict

/-- `u` is `s` after its first `j` stream bits and the `raise` of `e` at the next one, before the fault is taken. -/
structure RaisesAt (s : State) (j : Nat) (e : Raise) (u : State) : Prop where
  moves : Moves s u
  consumed : u.consumed = satAdd s.consumed j
  padded : u.padded = (s.padded || decide (s.upcoming.length < j))
  code : e.code = .bufferExhausted
  kind : e.kind = s.failKind j
  cursor : s.CursorAtFault j u

/-- The fault taken there is the one that the statements ask for (R125, R128, R129). -/
theorem RaisesAt.exhaustedAt {s u : State} {j : Nat} {e : Raise} (h : RaisesAt s j e u) (op : BitVec 4) :
    s.ExhaustedAt op j (u.faultEntry e op) :=
  ⟨rfl, h.code, rfl, h.kind, h.consumed, h.consumed, h.padded, h.cursor, rfl, h.moves.result, h.moves.ovr,
    h.moves.samePtl, h.moves.sameHostSide⟩

section
variable {s t : State} (hs : s.Readable)
include hs

/-- NextBit at the first bit that cannot be consumed raises there: by the budget check, which comes first, or in strict
mode by a fetch that takes the raw bytes left (R58, R61, R133). -/
theorem nextBit_fails_at {j : Nat} (h : Reaches s j t) (hf : s.FailsAt j) :
    ∃ e u, nextBit t = .raise e u ∧ RaisesAt s j e u := by
  obtain ⟨r, htook, hreq⟩ := h.raw
  have budget := h.overBudget hf.1
  cases hk : s.failKind j with
  | true =>
    have cursor : s.CursorAfter j r t := ⟨htook.bytepos, htook.history, h.cacheBits, h.cache⟩
    exact ⟨.budget, t, by rw [nextBit, if_pos (budget.trans hk)],
      h.moves, h.consumed, h.padded, rfl, hk.symm, cursorAtFault_of_budget hreq cursor hk⟩
  | false =>
    obtain ⟨hst, hlen⟩ := upcoming_length_of_failsAt hf hk
    have ended : t.upcoming = [] := by rw [h.upcoming hlen.ge, ← hlen, List.drop_length]
    obtain ⟨hbits, hnone⟩ := cursor_empty_of_upcoming_eq_nil ended
    obtain ⟨u, hfetch, took, hpad⟩ := fetchDelivered_strictEnd (h.readable hs) (h.moves.strict.trans hst) hnone
    have frame := fetchDelivered_fetches t
    rw [hfetch] at frame
    have all := htook.trans took
    have total : r + t.rawAhead.length = s.rawAhead.length := by
      rw [htook.rawAhead, List.length_drop, Nat.add_sub_cancel' htook.count]
    have dropped : t.rawAhead = [] ∨ t.rawAhead = [0x03] := by
      rw [State.delivered, List.take_length] at hnone
      exact unescape_eq_nil hnone
    refine ⟨.strictEnd, u, by rw [nextBit, budget, hk, if_neg (by decide), if_pos hbits, hfetch, Res.raise_andThen],
      h.moves.trans frame.toMoves, frame.sameConsumed.trans h.consumed, hpad.trans h.padded, rfl, hk.symm,
      r, _, hreq, ⟨all.bytepos, all.history, frame.cacheBits ▸ h.cacheBits, frame.cache.trans h.cache⟩,
      dropped.imp (fun none => by simp [none]) fun last => ?_, fun _ => total⟩
    have byte : s.rawAhead.getD r 0 = t.rawAhead.getD 0 0 := by simp [htook.rawAhead, List.getD_eq_getElem?_getD]
    exact ⟨by rw [last]; rfl, hk, by rw [byte, last]; rfl⟩

/-- ReadBitsInternal over the first bit that cannot be consumed raises there (R63, R129). -/
theorem readBits_fails_at {k j n : Nat} (h : Reaches s k t) (hf : s.FailsAt j) (hkj : k ≤ j) (hjn : j < k + n) :
    ∃ e u, readBits n t = .raise e u ∧ RaisesAt s j e u := by
  obtain ⟨i, rfl⟩ := Nat.exists_eq_add_of_le hkj
  obtain ⟨m, rfl⟩ := Nat.exists_eq_add_of_le (show i + 1 ≤ n by omega)
  obtain ⟨w, hread, hw⟩ := readBits_at hs h i hf.1
  obtain ⟨e, u, hn, hu⟩ := nextBit_fails_at hs hw hf
  refine ⟨e, u, ?_, hu⟩
  rw [Nat.add_assoc, Nat.add_comm 1 m, readBits_add, hread, Res.ok_andThen, readBits_succ, hn]
  rfl

end

/-- Settles O14: the read raises at the bit (`readBits_fails_at`), and the command takes the fault there. -/
theorem readsTakeBufferExhaustedAtTheFirstMissingBit : Obligations.ReadsTakeBufferExhaustedAtTheFirstMissingBit := by
  intro s n j hs hj hf
  obtain ⟨e, u, hr, hu⟩ := readBits_fails_at hs (.refl s) hf (Nat.zero_le j) (by rwa [Nat.zero_add])
  exact ⟨⟨_, by rw [exec, execRdbits, countOperand, hr, finish]; rfl, hu.exhaustedAt 0x2⟩,
    ⟨_, by rw [exec, execSkbits, countOperand, hr, finish]; rfl, hu.exhaustedAt 0x3⟩⟩

/-! ### Skips in parts -/

/-- A command that ends without a fault has completed (R128). -/
theorem ok_of_finish {α : Type} {op : BitVec 4} {commit : α → State → State} {r : Res α} {t : State}
    (h : finish op commit r = .next t) (ht : t.halted = false) : ∃ a u, r = .ok a u ∧ t = (commit a u).complete := by
  cases r with
  | ok a u =>
    cases h
    exact ⟨a, u, rfl, rfl⟩
  | raise e u =>
    cases h
    cases ht
  | stop f => cases h

/-- Skips of an idle block that end without a fault started without one, and leave what one read of their bits together
leaves (R93, R95). -/
theorem readBits_of_execAll_skbits {ns : List (BitVec 6)} {s t : State} (hrun : s.running = none)
    (h : execAll (ns.map .skbits) s = .next t) (ht : t.halted = false) :
    s.halted = false ∧ ∃ v, readBits (ns.map fun n => n.toNat).sum s = .ok v t := by
  induction ns generalizing s with
  | nil =>
    cases h
    exact ⟨ht, 0, rfl⟩
  | cons n ns ih =>
    rw [List.map_cons, execAll] at h
    cases hx : exec (.skbits n) s with rw [hx] at h
    | next u =>
      obtain ⟨hu, w, hrest⟩ := ih (exec_running hx) h
      obtain ⟨v, u, hr, rfl⟩ := ok_of_finish hx hu
      rw [countOperand] at hr
      have moved := (readBits_moves n.toNat s).of_eq hr
      rw [complete_of_idle (moved.running.trans hrun)] at hrest hu
      refine ⟨moved.halted.symm.trans hu, v * 2 ^ (ns.map fun n => n.toNat).sum + w, ?_⟩
      rw [List.map_cons, List.sum_cons, readBits_add, hr, Res.ok_andThen, hrest, Res.ok_andThen]
    | fault f => cases h
    | refused r => cases h

/-- Settles O16: both groupings leave what one read of all their bits leaves. -/
theorem groupingOfSkipsIsUnobservable : Obligations.GroupingOfSkipsIsUnobservable := by
  intro s t u ns ms hrun hsum hns hms ht hu
  obtain ⟨-, v, hv⟩ := readBits_of_execAll_skbits hrun hns ht
  obtain ⟨-, w, hw⟩ := readBits_of_execAll_skbits hrun hms hu
  rw [hsum] at hv
  cases hv.symm.trans hw
  rfl

/-! ### Reads in parts -/

/-- What RDBITS makes of the state its read leaves: RESULT is `v` and the block is idle (R76, R92). -/
def State.afterRead (v : Nat) (s : State) : State := (s.setResult v).complete

/-- An RDBITS that ends without a fault (R92). -/
theorem readBits_of_exec_rdbits {n : BitVec 6} {s t : State} (h : exec (.rdbits n) s = .next t)
    (ht : t.halted = false) : ∃ v u, readBits n.toNat s = .ok v u ∧ t = u.afterRead v :=
  ok_of_finish (commit := State.setResult) h ht

theorem memRead_afterRead (v a : Nat) (s : State) :
    memRead a (s.afterRead v) = (memRead a s).mapState (State.afterRead v) := by
  rcases memRead_cases a s with ⟨hout, hr⟩ | ⟨hin, b, hb, hr⟩ | ⟨hin, hb, hr⟩ <;> rw [hr]
  · exact memRead_outside hout
  · exact memRead_written hin hb
  · exact memRead_unwritten hin hb

theorem fetchLoop_afterRead (v left : Nat) (s : State) :
    fetchLoop left (s.afterRead v) = (fetchLoop left s).mapState (State.afterRead v) := by
  induction left generalizing s with
  | zero =>
    rw [fetchLoop, fetchLoop]
    rcases fetchPastEnd_cases s with ⟨hst, hp⟩ | ⟨hst, hp⟩ <;> rw [hp]
    · exact if_pos hst
    · exact if_neg (Bool.eq_false_iff.1 hst)
  | succ left ih =>
    have same : (s.afterRead v).bytepos = s.bytepos := rfl
    rw [fetchLoop, fetchLoop, same, memRead_afterRead]
    cases memRead s.bytepos.toNat s with
    | ok b t =>
      have drops : (t.afterRead v).drops b = t.drops b := rfl
      have taken : (t.afterRead v).takeRaw b = (t.takeRaw b).afterRead v := rfl
      rw [Res.mapState, Res.ok_andThen, Res.ok_andThen, drops, taken, ih]
      split <;> rfl
    | raise e t => rfl
    | stop f => rfl

/-- No bit read depends on RESULT or on BUSY (R61). -/
theorem nextBit_afterRead (v : Nat) (s : State) :
    nextBit (s.afterRead v) = (nextBit s).mapState (State.afterRead v) := by
  have fetched : fetchDelivered (s.afterRead v) = (fetchDelivered s).mapState (State.afterRead v) :=
    fetchLoop_afterRead v _ s
  rcases nextBit_cases s with ⟨hb, h⟩ | ⟨hb, hc, h⟩ | ⟨hb, hc, ⟨b, t, hd, h⟩ | ⟨t, hd, -, h⟩ | ⟨f, hd, h⟩⟩ <;> rw [h]
  · exact if_pos hb
  · exact (if_neg (Bool.eq_false_iff.1 hb)).trans (if_neg hc)
  all_goals
    refine ((if_neg (Bool.eq_false_iff.1 hb)).trans (if_pos hc)).trans ?_
    rw [fetched, hd]
    rfl

/-- An edit that NextBit carries through is carried through everything built from NextBit (R2, R10). -/
theorem Reads.mapState {α : Type} {f : State → Res α} {g : State → State}
    (hg : ∀ s, Machine.nextBit (g s) = (Machine.nextBit s).mapState g) (hf : Reads f) (s : State) :
    f (g s) = (f s).mapState g := by
  induction hf generalizing s with
  | ok a => rfl
  | raise e => rfl
  | nextBit => exact hg s
  | @andThen α β f k _ _ ihf ihk =>
    simp only [ihf]
    cases f s with
    | ok a t => exact ihk a t
    | raise e t => rfl
    | stop x => rfl

/-- A read that completes after an RDBITS would have completed before its end, with the same value. -/
theorem readBits_of_afterRead {n v w : Nat} {s t : State} (h : readBits n (s.afterRead v) = .ok w t) :
    ∃ u, readBits n s = .ok w u ∧ t = u.afterRead v := by
  rw [(readBits_reads n).mapState (nextBit_afterRead v)] at h
  cases hr : readBits n s with rw [hr] at h
  | ok w u =>
    cases h
    exact ⟨u, rfl, rfl⟩
  | raise e u => cases h
  | stop f => cases h

/-- The value of a + b bits is the first a bits shifted left by b, or the last b bits (R93). -/
theorem ofNat_mul_two_pow_add {k b w : Nat} (v : Nat) (hw : w < 2 ^ b) :
    BitVec.ofNat k (v * 2 ^ b + w) = (BitVec.ofNat k v <<< b) ||| BitVec.ofNat k w := by
  apply BitVec.eq_of_getLsbD_eq
  intro i hi
  rw [BitVec.getLsbD_or, BitVec.getLsbD_shiftLeft, BitVec.getLsbD_ofNat, BitVec.getLsbD_ofNat, BitVec.getLsbD_ofNat,
    Nat.mul_comm, Nat.testBit_two_pow_mul_add v hw]
  by_cases hib : i < b
  · simp [hib]
  · have high : w.testBit i = false := Nat.testBit_lt_two_pow (hw.trans_le (Nat.pow_le_pow_right (by decide) (by omega)))
    simp [hib, hi, high]
    omega

/-- Settles O15: the second read goes on where the first left the cursor (`readBits_of_afterRead`, `readBits_add`). -/
theorem rdbitsComposes : Obligations.RdbitsComposes := by
  intro s t1 t2 a b _ _ hab hx1 hx2 ht2
  obtain ⟨w, u2, hr2, rfl⟩ := readBits_of_exec_rdbits hx2 ht2
  have unhalted : t1.halted = false := ((readBits_moves _ t1).of_eq hr2).halted.symm.trans ht2
  obtain ⟨v, u1, hr1, rfl⟩ := readBits_of_exec_rdbits hx1 unhalted
  obtain ⟨u, hr, rfl⟩ := readBits_of_afterRead hr2
  have total : (a + b).toNat = a.toNat + b.toNat := by
    rw [BitVec.toNat_add]
    omega
  have value := ofNat_mul_two_pow_add (k := 64) v (readBits_lt hr2)
  rw [exec, execRdbits, countOperand, total, readBits_add, hr1, Res.ok_andThen, hr, Res.ok_andThen, finish,
    State.setResult, value]
  rfl

end Sys2Proof.Machine
end

section
/-! RDUE over a readable buffer: a code that can be consumed is decoded (O18), the 33rd leading zero is malformed (O20),
and the first bit of a code that cannot be consumed is a fault there (O21; R100, R101, R104, R105). -/
namespace Sys2Proof.Machine

/-- A code's value in [2^k - 1, 2^(k+1) - 2] determines its number `k` of leading zeros (R101). -/
theorem log2_succ_eq {k v : Nat} (hlo : 2 ^ k - 1 ≤ v) (hhi : v ≤ 2 ^ (k + 1) - 2) : Nat.log2 (v + 1) = k := by
  have := Nat.two_pow_pos k
  rw [Nat.pow_succ] at hhi
  refine (Nat.log2_eq_iff (Nat.succ_ne_zero v)).2 ⟨by omega, ?_⟩
  rw [Nat.pow_succ]
  omega

/-- Settles O18: RDUE returns the code's value (`exec_rdue_readable`), which a suffix of `k` bits keeps in its
interval. -/
theorem rdueDecodesExpGolomb : Obligations.RdueDecodesExpGolomb := by
  intro s k hs hk hzeros hone hc
  obtain ⟨t, hx, ht⟩ := exec_rdue_readable hs hk hzeros hone hc
  have suffix := streamVal_lt s (k + 1) k
  have hlo : 2 ^ k - 1 ≤ 2 ^ k - 1 + s.streamVal (k + 1) k := Nat.le_add_right _ _
  have hhi : 2 ^ k - 1 + s.streamVal (k + 1) k ≤ 2 ^ (k + 1) - 2 := by
    rw [Nat.pow_succ]
    omega
  have value := setResult_result_toNat (n := k + 1) t (by omega)
    (hhi.trans_lt (Nat.sub_lt (Nat.two_pow_pos _) (by decide)))
  refine ⟨_, hx, ?_⟩
  rw [State.complete_result, value]
  exact ⟨rfl, hlo, hhi, (log2_succ_eq hlo hhi).symm, ht.advanced hs, rfl, ht.moves.sameRecord, ht.moves.samePtl,
    ht.moves.ovr, ht.moves.sameHostSide⟩

/-! ### Zero runs that find no terminating 1 -/

/-- `z` zeros that can be consumed leave the zero run where it goes on behind them (R100). -/
theorem leadingZeros_zeros {s : State} (hs : s.Readable) {z : Nat} (left : Nat)
    (hzeros : ∀ i < z, s.streamBit i = false) (hc : s.CanConsume z) :
    ∃ t, leadingZeros (left + z) 0 s = leadingZeros left z t ∧ Reaches s z t := by
  induction z generalizing left with
  | zero => exact ⟨s, rfl, .refl s⟩
  | succ z ih =>
    obtain ⟨t, hz, ht⟩ := ih (left + 1) (fun i hi => hzeros i (by omega)) (canConsume_mono hc (by omega))
    obtain ⟨u, hn, hu⟩ := nextBit_at hs ht hc
    refine ⟨u, ?_, hu⟩
    rw [Nat.add_comm z 1, ← Nat.add_assoc, hz, leadingZeros_eq, hn, Res.ok_andThen, hzeros z (by omega), Nat.add_comm 1]
    rfl

/-- The zero after KMAX zeros is consumed and raises MalformedExpGolombCode (R100, R104). -/
theorem readUe_zeros {s : State} (hs : s.Readable) (hzeros : ∀ i < 33, s.streamBit i = false) (hc : s.CanConsume 33) :
    ∃ t, readUe s = .raise .malformedExpGolombCode t ∧ Reaches s 33 t := by
  obtain ⟨t, hz, ht⟩ := leadingZeros_zeros hs (z := kmax) 0 (fun i hi => hzeros i (Nat.lt_succ_of_lt hi))
    (canConsume_mono hc (by decide))
  obtain ⟨u, hn, hu⟩ := nextBit_at hs ht hc
  have last : s.streamBit kmax = false := hzeros 32 (by decide)
  refine ⟨u, ?_, hu⟩
  rw [Nat.zero_add] at hz
  rw [readUe, hz, leadingZeros_eq, hn, last]
  rfl

/-- Settles O20: the zero run raises at its 33rd zero (`readUe_zeros`), which has been consumed. -/
theorem rdueTakesMalformedAtTheThirtyThirdZero : Obligations.RdueTakesMalformedAtTheThirtyThirdZero := by
  intro s hs hzeros hc
  obtain ⟨t, hr, ht⟩ := readUe_zeros hs hzeros hc
  exact ⟨t.faultEntry .malformedExpGolombCode 0x4, by rw [exec, execRdue, hr, finish]; rfl, rfl, rfl, rfl, rfl,
    ht.consumed, ht.advanced hs, rfl, ht.moves.result, ht.moves.ovr, ht.moves.samePtl, ht.moves.sameHostSide⟩

/-! ### The first bit of a code that cannot be consumed -/

section
variable {s : State} {j : Nat} (hs : s.Readable) (hf : s.FailsAt j)
include hs hf

/-- After `j` zeros, KMAX at most, the next bit of the run or its terminating 1 cannot be consumed (R105). -/
theorem readUe_fails_in_zero_run (hj : j ≤ kmax) (hzeros : ∀ i < j, s.streamBit i = false) :
    ∃ e u, readUe s = .raise e u ∧ RaisesAt s j e u := by
  obtain ⟨t, hz, ht⟩ := leadingZeros_zeros hs (kmax - j) hzeros hf.1
  obtain ⟨e, u, hn, hu⟩ := nextBit_fails_at hs ht hf
  rw [Nat.sub_add_cancel hj] at hz
  exact ⟨e, u, by rw [readUe, hz, leadingZeros_eq, hn]; rfl, hu⟩

/-- Behind `k` zeros and the terminating 1, a bit of the suffix cannot be consumed (R105). -/
theorem readUe_fails_in_suffix {k : Nat} (hk : k ≤ 32) (hkj : k < j) (hj : j < 2 * k + 1)
    (hzeros : ∀ i < k, s.streamBit i = false) (hone : s.streamBit k = true) :
    ∃ e u, readUe s = .raise e u ∧ RaisesAt s j e u := by
  obtain ⟨t, hz, ht⟩ := leadingZeros_at hs (.refl s) (z := k) kmax 0 hk (by simpa using hzeros) (by simpa using hone)
    (canConsume_mono hf.1 (by omega))
  rw [Nat.zero_add] at hz ht
  obtain ⟨e, u, hr, hu⟩ := readBits_fails_at hs ht hf hkj (n := k) (by omega)
  exact ⟨e, u, by rw [readUe, hz, Res.ok_andThen, hr, Res.raise_andThen], hu⟩

end

/-- Settles O21: RDUE raises at the bit, in the zero run or in the suffix, and takes the fault there. -/
theorem rdueTakesBufferExhaustedAtTheFirstMissingBit : Obligations.RdueTakesBufferExhaustedAtTheFirstMissingBit := by
  intro s j hs hf hbit
  have raised : ∃ e u, readUe s = .raise e u ∧ RaisesAt s j e u := by
    rcases hbit with ⟨hj, hzeros⟩ | ⟨k, hk, hkj, hj, hzeros, hone⟩
    · exact readUe_fails_in_zero_run hs hf hj hzeros
    · exact readUe_fails_in_suffix hs hf hk hkj hj hzeros hone
  obtain ⟨e, u, hr, hu⟩ := raised
  exact ⟨u.faultEntry e 0x4, by rw [exec, execRdue, hr, finish]; rfl, hu.exhaustedAt 0x4⟩

end Sys2Proof.Machine
end

section
/-! The parts of PTL as runs of bits: step 7 is one run (O25; R116), and the first bit of the structure that cannot be
consumed is a fault there (O24; R117). -/
namespace Sys2Proof.Machine

/-! ### Parts that are one run of bits -/

/-- The outcome without its value: the state after it, or its fault. -/
def Res.discard {α : Type} (r : Res α) : Res Unit := r.andThen fun _ t => .ok () t

theorem Res.discard_unit (r : Res Unit) : r.discard = r := by cases r <;> rfl

theorem Res.discard_andThen {α β : Type} (r : Res α) (f : α → State → Res β) :
    (r.andThen f).discard = r.andThen fun a t => (f a t).discard :=
  Res.andThen_assoc ..

theorem readBits_add_discard (a b : Nat) (s : State) :
    (readBits (a + b) s).discard = (readBits a s).discard.andThen fun _ t => (readBits b t).discard := by
  rw [readBits_add, Res.discard_andThen, Res.discard, Res.andThen_assoc]
  simp only [Res.discard_andThen, Res.ok_andThen]
  rfl

/-- But for its value, `f` is the reading of `n` bits: the same state after it, the same fault at the same bit. -/
def Spans {α : Type} (n : Nat) (f : State → Res α) : Prop := ∀ s, (f s).discard = (readBits n s).discard

theorem readBits_spans (n : Nat) : Spans n (readBits n) := fun _ => rfl

theorem ok_spans {α : Type} (a : α) : Spans 0 (Res.ok a) := fun _ => rfl

/-- A run of `a` bits and then, whatever their value, one of `b` bits are one run of `n = a + b` bits (R93). -/
theorem Spans.andThen {α β : Type} {a b n : Nat} {f : State → Res α} {g : α → State → Res β} (hf : Spans a f)
    (hg : ∀ x, Spans b (g x)) (hn : a + b = n) : Spans n fun s => (f s).andThen g := by
  intro s
  have rest : (fun x t => (g x t).discard) = fun _ t => (readBits b t).discard := funext₂ hg
  have split : (f s).andThen (fun _ t => (readBits b t).discard) =
      (f s).discard.andThen fun _ t => (readBits b t).discard := by rw [Res.discard, Res.andThen_assoc]; rfl
  rw [Res.discard_andThen, rest, split, hf, ← readBits_add_discard, hn]

theorem readField_spans (w : Nat) : Spans w (readField w) := (readBits_spans w).andThen (fun _ => ok_spans _) rfl

theorem readFields_spans (w count : Nat) : Spans (w * count) (readFields w count) := by
  induction count with
  | zero => exact ok_spans []
  | succ count ih =>
    exact (readField_spans w).andThen (fun _ => ih.andThen (fun _ => ok_spans _) rfl) (by ring)

theorem readSubLayerFlags_spans (m : Nat) : Spans (2 * m) (readSubLayerFlags m) := by
  induction m with
  | zero => exact ok_spans []
  | succ m ih =>
    have rest := fun pp : BitVec 1 => (readField_spans 1).andThen
      (fun lp => ih.andThen (fun l => ok_spans ((pp, lp) :: l)) rfl) rfl
    exact (readField_spans 1).andThen rest (by ring)

/-- A skip that a flag switches on is a run of its bits or of none. -/
theorem ite_readBits_spans (p : Prop) [Decidable p] (n : Nat) :
    Spans (if p then n else 0) fun s => if p then readBits n s else .ok 0 s := by
  split
  · exact readBits_spans n
  · exact ok_spans 0

theorem skippedBits_cons (pp lp : BitVec 1) (l : List (BitVec 1 × BitVec 1)) :
    skippedBits ((pp, lp) :: l) = (if pp = 1 then 88 else 0) + ((if lp = 1 then 8 else 0) + skippedBits l) := by
  simp only [skippedBits, List.filter_cons, decide_eq_true_eq, apply_ite List.length, List.length_cons]
  split_ifs <;> omega

theorem skipSubLayers_spans (l : List (BitVec 1 × BitVec 1)) : Spans (skippedBits l) (skipSubLayers l) := by
  induction l with
  | nil => exact ok_spans ()
  | cons p rest ih =>
    obtain ⟨pp, lp⟩ := p
    exact (ite_readBits_spans (pp = 1) 88).andThen
      (fun _ => (ite_readBits_spans (lp = 1) 8).andThen (fun _ => ih) rfl) (skippedBits_cons pp lp rest).symm

/-- Settles O25: step 7 has no value to lose, so it is the run of bits that it spans (`skipSubLayers_spans`). -/
theorem subLayerSkipsAreOneRunOfBits : Obligations.SubLayerSkipsAreOneRunOfBits := by
  intro s l
  rw [← Res.discard_unit (skipSubLayers l s), skipSubLayers_spans]
  rfl

/-! ### The first bit of the structure that cannot be consumed -/

/-- The part raises at stream bit `j` of `s`, the first that cannot be consumed. -/
def Res.FailsAt {α : Type} (s : State) (j : Nat) (r : Res α) : Prop := ∃ e u, r = .raise e u ∧ RaisesAt s j e u

section
variable {α β : Type} {s t : State} {j k n : Nat} {f : State → Res α} (hs : s.Readable) (hf : s.FailsAt j)
  (h : Reaches s k t) (hspan : Spans n f)
include hs h hspan

/-- A run of bits that can be consumed moves the cursor over them. -/
theorem Spans.completes (hc : s.CanConsume (k + n)) : ∃ a u, f t = .ok a u ∧ Reaches s (k + n) u := by
  obtain ⟨u, hr, hu⟩ := readBits_at hs h n hc
  have same := hspan t
  rw [hr] at same
  obtain ⟨a, v, hft, hv⟩ := Res.andThen_eq_ok.1 same
  cases hv
  exact ⟨a, u, hft, hu⟩

include hf

/-- A run of bits over the first that cannot be consumed raises there. -/
theorem Spans.failsAt (hkj : k ≤ j) (hjn : j < k + n) : (f t).FailsAt s j := by
  obtain ⟨e, u, hr, hu⟩ := readBits_fails_at hs h hf hkj hjn
  have same := hspan t
  rw [hr] at same
  rcases Res.andThen_eq_raise.1 same with hft | ⟨_, _, -, hv⟩
  · exact ⟨e, u, hft, hu⟩
  · cases hv

/-- A run of bits and what follows it raise at bit `j` if what follows does, where the run ends before the bit. -/
theorem Spans.andThen_failsAt {g : α → State → Res β} (hkj : k ≤ j)
    (hg : ∀ a u, f t = .ok a u → Reaches s (k + n) u → k + n ≤ j → (g a u).FailsAt s j) :
    ((f t).andThen g).FailsAt s j := by
  rcases Nat.lt_or_ge j (k + n) with hj | hj
  · obtain ⟨e, u, hr, hu⟩ := hspan.failsAt hs hf h hkj hj
    exact ⟨e, u, by rw [hr, Res.raise_andThen], hu⟩
  · obtain ⟨a, u, hr, hu⟩ := hspan.completes hs h (canConsume_mono hf.1 hj)
    rw [hr, Res.ok_andThen]
    exact hg a u hr hu hj

end

/-- A bit of the structure that cannot be consumed makes its reading raise there (R117): the fixed fields and the flags
come first, and the flags read decide how many bits follow them. -/
theorem parsePtl_fails_at {s : State} {m j : Nat} (hm : m ≤ 7) (hs : s.Readable) (hf : s.FailsAt j)
    (hj : j < s.ptlBits m) : (parsePtl m s).FailsAt s j := by
  rw [ptlBits_eq s hm] at hj
  refine (readField_spans 2).andThen_failsAt hs hf (.refl s) (Nat.zero_le j) fun _ _ _ r1 l1 => ?_
  refine (readField_spans 1).andThen_failsAt hs hf r1 l1 fun _ _ _ r2 l2 => ?_
  refine (readField_spans 5).andThen_failsAt hs hf r2 l2 fun _ _ _ r3 l3 => ?_
  refine (readFields_spans 8 4).andThen_failsAt hs hf r3 l3 fun _ _ _ r4 l4 => ?_
  refine (readFields_spans 8 6).andThen_failsAt hs hf r4 l4 fun _ _ _ r5 l5 => ?_
  refine (readField_spans 8).andThen_failsAt hs hf r5 l5 fun _ _ _ r6 l6 => ?_
  refine (readSubLayerFlags_spans m).andThen_failsAt hs hf r6 l6 fun flags _ hflags r7 l7 => ?_
  obtain ⟨_, hread, -⟩ := readSubLayerFlags_at hs r6 m (canConsume_mono hf.1 l7)
  cases hflags.symm.trans hread
  refine (ite_readBits_spans (m ≠ 0) ((8 - m) * 2)).andThen_failsAt hs hf r7 l7 fun _ _ _ r8 l8 => ?_
  exact ((skipSubLayers_spans _).andThen (fun _ => ok_spans _) rfl).failsAt hs hf r8 l8 hj

/-- Settles O24: the structure's reading raises at the bit (`parsePtl_fails_at`), so nothing is committed. -/
theorem faultingPtlWritesNoPtlRegister : Obligations.FaultingPtlWritesNoPtlRegister := by
  intro s m j hs hf hj
  obtain ⟨e, u, hr, hu⟩ := parsePtl_fails_at (Nat.le_of_lt_succ m.isLt) hs hf hj
  exact ⟨u.faultEntry e 0x5, by rw [exec, execPtl, subLayerOperand, hr, finish]; rfl, hu.exhaustedAt 0x5⟩

end Sys2Proof.Machine
end

section
/-! The codec-id: Dec and Hex write the number (O28; R119), where the constraint tokens start (O29; R122), the length
and the characters of the whole (O27, O30; R121, R123). -/
namespace Sys2Proof.Machine

/-! ### Digits -/

/-- A number that `fuel + 1` binary digits suffice for leaves one that `fuel` suffice for, in any base. -/
theorem div_base_lt_two_pow {base fuel v : Nat} (hb : 2 ≤ base) (hv : v < 2 ^ (fuel + 1)) : v / base < 2 ^ fuel := by
  refine Nat.div_lt_of_lt_mul (hv.trans_le ?_)
  rw [Nat.pow_succ, Nat.mul_comm]
  exact Nat.mul_le_mul_right _ hb

/-- One more digit at the end. -/
theorem digitsValue_concat (base : Nat) (l : List Char) {d : Nat} (hd : d < 16) :
    digitsValue base (l ++ [digitChar d]) = base * digitsValue base l + d := by
  have value : ∀ d < 16,
      (if (digitChar d).toNat < 58 then (digitChar d).toNat - 48 else (digitChar d).toNat - 87) = d := by decide
  rw [digitsValue, List.foldl_append, List.foldl_cons, List.foldl_nil, value d hd]
  rfl

/-- With fuel for every digit, the digits written are the number's (R119). -/
theorem digitsValue_digits {base fuel v : Nat} (hb : 2 ≤ base) (hb16 : base ≤ 16) (hv : v < 2 ^ fuel) :
    digitsValue base (digits base fuel v) = v := by
  induction fuel generalizing v with
  | zero => exact (Nat.lt_one_iff.1 hv).symm
  | succ fuel ih =>
    unfold digits
    split
    · next hlt => simpa [digitsValue] using digitsValue_concat base [] (hlt.trans_le hb16)
    · have last : v % base < 16 := (Nat.mod_lt v (by omega)).trans_le hb16
      rw [digitsValue_concat base _ last, ih (div_base_lt_two_pow hb hv), Nat.div_add_mod]

/-- Every character written is a digit of the base. -/
theorem exists_digit_of_mem_digits {base fuel v : Nat} (hb : 0 < base) {c : Char} (h : c ∈ digits base fuel v) :
    ∃ d < base, c = digitChar d := by
  induction fuel generalizing v with
  | zero => cases h
  | succ fuel ih =>
    unfold digits at h
    split at h
    · next hlt => exact ⟨v, hlt, List.mem_singleton.1 h⟩
    · rcases List.mem_append.1 h with h | h
      · exact ih h
      · exact ⟨v % base, Nat.mod_lt v hb, List.mem_singleton.1 h⟩

/-- The first digit of a number that is not 0 is not 0 (R119). -/
theorem digits_head? {base fuel v : Nat} (hb : 2 ≤ base) (hv : v < 2 ^ fuel) (hpos : 0 < v) :
    ∃ d, 0 < d ∧ d < base ∧ (digits base fuel v).head? = some (digitChar d) := by
  induction fuel generalizing v with
  | zero =>
    rw [Nat.pow_zero] at hv
    omega
  | succ fuel ih =>
    unfold digits
    split
    · next hlt => exact ⟨v, hpos, hlt, rfl⟩
    · next hge =>
      obtain ⟨d, hd, hlt, hhead⟩ := ih (div_base_lt_two_pow hb hv) (Nat.div_pos (Nat.le_of_not_lt hge) (by omega))
      exact ⟨d, hd, hlt, by rw [List.head?_append, hhead]; rfl⟩

theorem digits_head?_ne_zero {base fuel v : Nat} (hb : 2 ≤ base) (hb16 : base ≤ 16) (hv : v < 2 ^ fuel)
    (hpos : 0 < v) : (digits base fuel v).head? ≠ some '0' := by
  have nonzero : ∀ d < 16, 0 < d → digitChar d ≠ '0' := by decide
  obtain ⟨d, hd, hlt, hhead⟩ := digits_head? hb hv hpos
  rw [hhead]
  exact fun h => nonzero d (hlt.trans_le hb16) hd (Option.some.inj h)

/-- Decimal digits are 0-9 (R119). -/
theorem toNat_of_mem_dec {v : Nat} {c : Char} (h : c ∈ dec v) : 48 ≤ c.toNat ∧ c.toNat ≤ 57 := by
  have range : ∀ d < 10, 48 ≤ (digitChar d).toNat ∧ (digitChar d).toNat ≤ 57 := by decide
  obtain ⟨d, hd, rfl⟩ := exists_digit_of_mem_digits (by decide) h
  exact range d hd

/-- Hexadecimal digits are 0-9 and a-f (R119). -/
theorem toNat_of_mem_hex {v : Nat} {c : Char} (h : c ∈ hex v) :
    (48 ≤ c.toNat ∧ c.toNat ≤ 57) ∨ (97 ≤ c.toNat ∧ c.toNat ≤ 102) := by
  have range : ∀ d < 16, (48 ≤ (digitChar d).toNat ∧ (digitChar d).toNat ≤ 57) ∨
      (97 ≤ (digitChar d).toNat ∧ (digitChar d).toNat ≤ 102) := by decide
  obtain ⟨d, hd, rfl⟩ := exists_digit_of_mem_digits (by decide) h
  exact range d hd

/-- Settles O28: `v` has no more digits in any base than in base 2, so the fuel of Dec and Hex suffices. -/
theorem decAndHexWriteTheNumberWithoutLeadingZeros : Obligations.DecAndHexWriteTheNumberWithoutLeadingZeros := by
  intro v
  have fuel : v < 2 ^ (Nat.log2 v + 1) := Nat.lt_log2_self
  refine ⟨⟨digitsValue_digits (by decide) (by decide) fuel, fun c => toNat_of_mem_dec, by decide,
      fun hpos => ⟨digits_head?_ne_zero (by decide) (by decide) fuel hpos, dec_ne_nil v⟩⟩,
    ⟨digitsValue_digits (by decide) (by decide) fuel, fun c => toNat_of_mem_hex, by decide,
      fun hpos => ⟨digits_head?_ne_zero (by decide) (by decide) fuel hpos, hex_ne_nil v⟩⟩,
    List.length_pos_iff.2 (dec_ne_nil v), fun h => digits_length_le 10 _ 1 v (h.trans_le (by decide)),
    fun h => digits_length_le 10 _ 2 v (h.trans_le (by decide)), List.length_pos_iff.2 (hex_ne_nil v),
    fun h => digits_length_le 16 _ 7 v (h.trans_le (by decide)),
    fun h => digits_length_le 16 _ 1 v (h.trans_le (by decide))⟩

/-! ### Constraint tokens -/

/-- From its end down, a list whose last nonzero byte has index `h` is zeros and then the bytes `h` to 0. -/
theorem dropWhile_reverse_eq {cons : List Byte} {h : Nat} (hlt : h < cons.length) (hne : cons.getD h 0 ≠ 0)
    (hzero : ∀ i, h < i → cons.getD i 0 = 0) :
    cons.reverse.dropWhile (· == 0) = (List.range (h + 1)).map fun i => cons.getD (h - i) 0 := by
  have above : ∀ c ∈ (cons.drop (h + 1)).reverse, (c == 0) = true := by
    intro c hc
    obtain ⟨i, hi, rfl⟩ := List.mem_iff_getElem.1 (List.mem_reverse.1 hc)
    have := hzero (h + 1 + i) (by omega)
    rw [List.length_drop] at hi
    rw [List.getD_eq_getElem _ _ (by omega)] at this
    simpa using this
  have top : (cons.take (h + 1)).reverse = cons.getD h 0 :: (cons.take h).reverse := by
    rw [List.take_succ_eq_append_getElem hlt, List.reverse_append, List.getD_eq_getElem _ _ hlt]
    rfl
  calc cons.reverse.dropWhile (· == 0)
      = ((cons.drop (h + 1)).reverse ++ (cons.take (h + 1)).reverse).dropWhile (· == 0) := by
        rw [← List.reverse_append, List.take_append_drop]
    _ = (cons.take (h + 1)).reverse := by
        rw [List.dropWhile_append_of_pos above, top, List.dropWhile_cons_of_neg (by simpa using hne)]
    _ = (List.range (h + 1)).map fun i => cons.getD (h - i) 0 := by
        refine List.ext_getElem (by simp; omega) fun i _ hi => ?_
        rw [List.length_map, List.length_range] at hi
        have last : min (h + 1) cons.length - 1 - i = h - i := by omega
        simp [List.getD_eq_getElem?_getD, last, show h - i < cons.length by omega]

/-- Settles O29: what the formatter drops is the zeros above the highest nonzero byte (`dropWhile_reverse_eq`). -/
theorem constraintTokensStartAtTheHighestNonzeroByte : Obligations.ConstraintTokensStartAtTheHighestNonzeroByte := by
  refine ⟨fun cons => ⟨fun hzero => ?_, fun h hlt hne hzero => ?_⟩, by decide⟩
  · have all : cons.reverse.dropWhile (· == 0) = [] := List.dropWhile_eq_nil_iff.2 fun c hc => by
      simp [hzero c (List.mem_reverse.1 hc)]
    rw [constraintTokens, all, List.flatMap_nil]
  · rw [constraintTokens, dropWhile_reverse_eq hlt hne hzero, List.flatMap_def, List.map_map]
    rfl

/-! ### The whole codec-id -/

/-- Settles O27: the bounds are `formatCid_length_bounds`, and what PTL commits keeps them (`commitPtl_cidLegal`). -/
theorem codecIdFitsTheCidBuffer : Obligations.CodecIdFitsTheCidBuffer := by
  refine ⟨fun ps tf idc compat cons lvl => formatCid_length_bounds ps tf idc compat cons lvl, by decide, by decide,
    by decide, fun s t m _ hx ht => ?_⟩
  obtain ⟨f, u, hp, rfl⟩ := ok_of_finish hx ht
  obtain ⟨hcons, -⟩ := parsePtl_lengths hp
  obtain ⟨-, -, bounds, -⟩ := commitPtl_cidLegal m f u hcons
  exact bounds rfl

/-- The codes R123 lists. -/
def cidCodes : List Byte :=
  [0x2E, 0x30, 0x31, 0x32, 0x33, 0x34, 0x35, 0x36, 0x37, 0x38, 0x39, 0x41, 0x42, 0x43, 0x48, 0x4C,
    0x61, 0x62, 0x63, 0x64, 0x65, 0x66, 0x68, 0x76]

/-- Every character of the text has one of these codes. -/
abbrev Listed (l : List Char) : Prop := l.map ascii ⊆ cidCodes

theorem listed_iff {l : List Char} : Listed l ↔ ∀ c ∈ l, ascii c ∈ cidCodes := List.forall_mem_map

theorem listed_append {l l' : List Char} : Listed (l ++ l') ↔ Listed l ∧ Listed l' := by
  rw [Listed, List.map_append, List.append_subset]

theorem digits_listed (base fuel v : Nat) (hb : 0 < base) (hb16 : base ≤ 16) : Listed (digits base fuel v) := by
  have digit : ∀ d < 16, ascii (digitChar d) ∈ cidCodes := by decide
  refine listed_iff.2 fun c hc => ?_
  obtain ⟨d, hd, rfl⟩ := exists_digit_of_mem_digits hb hc
  exact digit d (hd.trans_le hb16)

theorem dec_listed (v : Nat) : Listed (dec v) := digits_listed 10 _ v (by decide) (by decide)

theorem hex_listed (v : Nat) : Listed (hex v) := digits_listed 16 _ v (by decide) (by decide)

theorem dot_listed : Listed ['.'] := by decide

theorem spaceLetter_listed : ∀ ps, Listed (spaceLetter ps) := by decide

theorem tierLetter_listed : ∀ tf, Listed [tierLetter tf] := by decide

theorem constraintTokens_listed (cons : List Byte) : Listed (constraintTokens cons) := by
  refine listed_iff.2 fun c hc => ?_
  obtain ⟨b, -, hc⟩ := List.mem_flatMap.1 hc
  exact listed_iff.1 (listed_append.2 ⟨dot_listed, hex_listed b.toNat⟩) c hc

/-- Each part of the codec-id writes listed characters only (R118, R123). -/
theorem formatCid_listed (ps : BitVec 2) (tf : BitVec 1) (idc : BitVec 5) (compat : Word) (cons : List Byte)
    (lvl : Byte) : Listed (formatCid ps tf idc compat cons lvl) := by
  have hvc1 : Listed ['h', 'v', 'c', '1', '.'] := by decide
  simp only [formatCid, listed_append]
  exact ⟨⟨⟨⟨⟨⟨⟨⟨hvc1, spaceLetter_listed ps⟩, dec_listed _⟩, dot_listed⟩, hex_listed _⟩, dot_listed⟩,
    tierLetter_listed tf⟩, dec_listed _⟩, constraintTokens_listed cons⟩

/-- Settles O30: the five fixed characters come first, and every part writes listed characters (`formatCid_listed`). -/
theorem codecIdUsesOnlyTheListedCharacters : Obligations.CodecIdUsesOnlyTheListedCharacters := by
  intro ps tf idc compat cons lvl
  exact ⟨rfl, fun _ hc => formatCid_listed ps tf idc compat cons lvl hc⟩

end Sys2Proof.Machine
end

section
/-! Exceptions and idling: what a fault leaves (O35, O37; R128, R129, R135), which command raises which error
(O36; R125, R126, R133), an accepted illegal word (O6; R127) and an idle block (O7; R143). -/
namespace Sys2Proof.Machine

/-! ### How a command faults -/

/-- A command that halts the block is not INIT: it has moved the cursor and taken a fault that it can raise, and that is
all it has done (R125, R128). -/
theorem exec_faults {i : Instr} {s t : State} (hh : s.halted = false) (h : exec i s = .next t)
    (ht : t.halted = true) : i ≠ .init ∧ ∃ u e, Moves s u ∧
      (Exhausts s e ∨ (e = .malformedExpGolombCode ∧ i = .rdue)) ∧ t = u.faultEntry e i.op := by
  rcases exec_cases h with ⟨-, rfl⟩ | ⟨hi, u, hu, ⟨w, hc, rfl⟩ | ⟨e, he, rfl⟩⟩
  · cases ht
  · have completed : w.complete.halted = s.halted := by cases hc <;> exact hu.halted
    rw [completed, hh] at ht
    cases ht
  · exact ⟨hi, u, e, hu, he, rfl⟩

/-- Every error has a nonzero code (R20, R125). -/
theorem Raise.code_ne_none (e : Raise) : e.code ≠ .none := by cases e <;> decide

/-- Settles O35: a fault follows a move of the cursor, which writes none of these fields. -/
theorem faultingCommandMakesNoFinalWrite : Obligations.FaultingCommandMakesNoFinalWrite := by
  intro i s t hh h ht
  obtain ⟨-, u, e, hu, he, rfl⟩ := exec_faults hh h ht
  have legal : e.code ≠ .illegalCommand := by
    rcases he with (⟨rfl, -⟩ | ⟨rfl, -⟩) | ⟨rfl, -⟩ <;> decide
  exact ⟨e.code_ne_none, legal, rfl, rfl, rfl, hu.result, hu.samePtl, hu.sameHostSide⟩

/-- Settles O36: the three errors of `exec_faults`, each with what raises it. -/
theorem errorsComeOnlyFromTheCommandsThatRaiseThem :
    Obligations.ErrorsComeOnlyFromTheCommandsThatRaiseThem := by
  intro i s t hh h ht
  obtain ⟨hi, u, e, -, (⟨rfl, hbudget⟩ | ⟨rfl, hstrict⟩) | ⟨rfl, hrdue⟩, rfl⟩ := exec_faults hh h ht
  · exact ⟨hi, nofun, fun _ => ⟨hbudget, rfl⟩, fun _ => nofun⟩
  · exact ⟨hi, nofun, nofun, fun _ _ => hstrict⟩
  · exact ⟨hi, fun _ => ⟨hrdue, rfl⟩, nofun, nofun⟩

/-! ### STATUS after a fault -/

/-- An accepted word that halts the block has at most moved the cursor before its fault, illegal words included. -/
theorem runWord_faults {w : Word} {s t : State} (hh : s.halted = false) (h : runWord w s = .next t)
    (ht : t.halted = true) : ∃ u e op, Moves s u ∧ t = u.faultEntry e op := by
  unfold runWord at h
  split at h
  · obtain ⟨-, u, e, hu, -, rfl⟩ := exec_faults hh h ht
    exact ⟨u, e, _, hu, rfl⟩
  · cases h
    exact ⟨s, .illegalCommand, _, .refl s, rfl⟩

/-- STATUS after fault entry, its fields by shifts: BUSY is 0 and HALTED is 1 (R17, R128). -/
theorem statusWord_faultEntry (e : Raise) (op : BitVec 4) (s : State) :
    statusWord (s.faultEntry e op) = (0x2 ||| (e.code.code.setWidth 32 <<< 4)) |||
      ((BitVec.ofBool s.padded).setWidth 32 <<< 8) ||| ((BitVec.ofBool s.ovr).setWidth 32 <<< 9) |||
      ((BitVec.ofBool s.cidv).setWidth 32 <<< 10) := by
  simp only [statusWord, State.busy, State.faultEntry_cidv, State.faultEntry_ovr, State.faultEntry_padded,
    State.faultEntry_err, State.faultEntry_halted, State.faultEntry_running, Option.isSome_none]
  generalize e.code.code = c, s.padded = p, s.ovr = o, s.cidv = v
  revert c p o v
  decide

/-- Settles O37: `statusWord_faultEntry` with the error's code put in; a move of the cursor keeps OVR and CIDV. -/
theorem statusWordAfterAFault : Obligations.StatusWordAfterAFault := by
  intro w s t hh h ht
  obtain ⟨u, e, op, hu, rfl⟩ := runWord_faults hh h ht
  rw [← hu.ovr, ← hu.cidv, statusWord_faultEntry]
  cases e <;> rfl

/-! ### The engine's turn without a command -/

/-- A step whose next input is the engine's turn takes it off the inputs first (R74). -/
theorem step_engine {s : State} {rest : List Input} (hin : s.inputs = .engine :: rest) :
    step s = engineTurn (s.setInputs rest) := by
  rw [step, hin]
  rfl

/-- With no input left the engine moves (R159). -/
theorem step_nil {s : State} (hin : s.inputs = []) : step s = engineTurn s := by rw [step, hin]

/-- The engine's turn on an accepted illegal word is its fault (R127). -/
theorem engineTurn_illegal {s : State} {w : Word} {e : IllegalWord} (hr : s.running = some w)
    (hd : decode w = .error e) : engineTurn s = .next (s.faultEntry .illegalCommand (opField w)) := by
  simp only [engineTurn, hr, runWord, hd]

/-- The engine has no command to run (R143). -/
theorem engineTurn_of_idle {s : State} (hr : s.running = none) : engineTurn s = .next s := by rw [engineTurn, hr]

/-- Settles O6: the turn is the illegal word's fault, whose entry writes exactly these fields. -/
theorem illegalWordTakesIllegalCommand : Obligations.IllegalWordTakesIllegalCommand := by
  intro s w e rest hr hd hin
  rw [step_engine hin, engineTurn_illegal (s := s.setInputs rest) hr hd]
  rfl

/-- Settles O7: with no command to run the engine's turn answers the state it is given. -/
theorem idleBlockKeepsItsState : Obligations.IdleBlockKeepsItsState := by
  intro s hr
  refine ⟨fun hin => ?_, fun rest hin => ?_⟩
  · rw [step_nil hin, engineTurn_of_idle hr]
  · rw [step_engine hin, engineTurn_of_idle (s := s.setInputs rest) hr]
    rfl

end Sys2Proof.Machine
end

section
/-! Reset and hazards: the host's accesses while BUSY = 1 (O50, O51; R151, R152), a LEN write (O44; R156) and accesses
while `rst` is asserted (O54; R146). -/
namespace Sys2Proof.Machine

/-! ### Accesses while BUSY = 1 -/

theorem hostWrite_of_busy {s : State} (hb : s.busy = true) (hrst : s.rst = false) (t : Target) (v : Word) :
    hostWrite t v s = writeBusy t s := by
  simp [hostWrite, hb, hrst]

theorem hostRead_of_busy {s : State} (hb : s.busy = true) (t : Target) :
    hostRead t s = (readBusy t s).2.returnWord (readBusy t s).1 := by
  simp [hostRead, hb]

/-- Only a CMD write leaves a trace while BUSY = 1 (R151). -/
theorem writeBusy_of_ne_cmd {t : Target} (ht : t ≠ .cmd) (s : State) : writeBusy t s = s := by
  unfold writeBusy
  split
  · exact absurd rfl ht
  · rfl

/-- Whatever the draw, STATUS reads BUSY as 1 (R152). -/
theorem busyStatusWord_getLsbD_zero (d : Word) : (busyStatusWord d).getLsbD 0 = true :=
  BitVec.getLsbD_append (x := d.extractLsb' 1 31) (y := 1#1)

/-- Settles O50: the offset of CMD is the only one that names CMD. -/
theorem writesWhileBusyAreDropped : Obligations.WritesWhileBusyAreDropped := by
  intro s a v rest hb hrst hal hin
  rw [step_write hin hal, hostWrite_of_busy (s := s.setInputs rest) hb hrst]
  refine ⟨fun hcmd => ?cmd, fun hother => ?other⟩
  case cmd =>
    rw [targetOf, hcmd]
    rfl
  case other =>
    rw [writeBusy_of_ne_cmd fun ht => hother (targetOf_eq ht)]
    rfl

/-- Settles O51: `hostRead_keeps`, and what ID and STATUS return while BUSY = 1. -/
theorem readsWhileBusyChangeNoRegister : Obligations.ReadsWhileBusyChangeNoRegister := by
  intro s a rest hb hal hin
  refine ⟨_, step_read hin hal, ?frame, fun hid => ?id, fun hstatus => ?status⟩
  case frame =>
    obtain ⟨v, d, -, hread⟩ := hostRead_keeps (targetOf s.ibufBytes a) (s.setInputs rest)
    rw [hread]
    rfl
  case id =>
    rw [hostRead_of_busy (s := s.setInputs rest) hb, targetOf, hid]
    rfl
  case status =>
    rw [hostRead_of_busy (s := s.setInputs rest) hb, targetOf, hstatus]
    exact busyStatusWord_getLsbD_zero _

/-! ### LEN -/

/-- The minimum fits in LEN's 16 bits (R25). -/
theorem writeLen_len_toNat (v : Word) (s : State) :
    (s.writeLen v).len.toNat = min (v.toNat % 2 ^ 16) s.ibufBytes := by
  have low : (v.extractLsb' 0 16).toNat = v.toNat % 2 ^ 16 := by simp
  rw [State.writeLen_len, low, BitVec.toNat_ofNat]
  omega

/-- Settles O44: LEN is what its offset names, and the write stores only there. -/
theorem lenWriteStoresTheMinimum : Obligations.LenWriteStoresTheMinimum := by
  intro s v rest hr hrst hin
  exact ⟨_, step_write_idle hr hrst hin (by decide), writeLen_len_toNat v (s.setInputs rest), rfl⟩

/-! ### Accesses while `rst` is asserted -/

theorem hostWrite_of_rst {s : State} (hrst : s.rst = true) (t : Target) (v : Word) : hostWrite t v s = s := by
  simp [hostWrite, hrst]

/-- The offsets that the register map lists (R14). -/
theorem registerMap_offsets (s : State) :
    (registerMap s).map Prod.fst = (List.range 18).map (4 * ·) ++ (List.range 10).map (0x080 + 4 * ·) := rfl

/-- Below IBUF the register map and the reserved offsets share out every aligned offset (R14, R66). -/
theorem listed_or_reservedOffset (s : State) {a : Offset} (hal : a.toNat % 4 = 0) (hlt : a.toNat < 0x10000) :
    (∃ r ∈ registerMap s, r.1 = a.toNat) ∨ reservedOffset s.ibufBytes a := by
  have listed : a.toNat ∈ (registerMap s).map Prod.fst ∨ reservedOffset s.ibufBytes a := by
    rw [registerMap_offsets, List.mem_append, List.mem_map, List.mem_map]
    by_cases named : a.toNat < 0x048
    · exact .inl (.inl ⟨a.toNat / 4, List.mem_range.2 (by omega), by omega⟩)
    · by_cases cid : 0x080 ≤ a.toNat ∧ a.toNat < 0x0A8
      · exact .inl (.inr ⟨(a.toNat - 0x080) / 4, List.mem_range.2 (by omega), by omega⟩)
      · exact .inr (by unfold reservedOffset; omega)
  exact listed.imp_left List.mem_map.1

/-- Settles O54: while `rst` is asserted the registers hold `applyReset`'s values, so a listed offset reads as O47 and
`registerMap_applyReset` say, and every other one below IBUF is reserved (O48). -/
theorem accessesDuringResetHaveNoEffect : Obligations.AccessesDuringResetHaveNoEffect := by
  intro s a v rest hrst hal
  refine ⟨fun hin => ?write, fun hin hinv hlt => ?read⟩
  case write =>
    rw [step_write hin hal, hostWrite_of_rst (s := s.setInputs rest) hrst]
    rfl
  case read =>
    obtain ⟨-, -, -, -, -, -, -, -, -, hreset⟩ := hinv
    have held : s = s.applyReset true := hreset hrst
    have idle : s.running = none := by rw [held, State.applyReset_running]
    rcases listed_or_reservedOffset s hal hlt with ⟨r, hr, ha⟩ | hres
    · have offset : BitVec.ofNat 17 r.1 = a := by rw [ha, BitVec.ofNat_toNat, BitVec.setWidth_eq]
      have idOffset : r.1 = 0 ↔ a = 0 := by
        rw [ha]
        exact (BitVec.toNat_eq (y := 0)).symm
      have value : BitVec.ofNat 32 r.2 = if a = 0 then 0x50544C01 else 0 := by
        rw [registerMap_applyReset true s r (held ▸ hr)]
        simp only [idOffset]
        split <;> rfl
      rw [idleReadsFollowTheRegisterMap s rest idle r hr (offset ▸ hin), value]
    · have notId : a ≠ 0 := by
        rintro rfl
        simp [reservedOffset] at hres
      obtain ⟨reads, -⟩ := reservedAndReadOnlyOffsetsIgnoreWrites s a v rest hal
      rw [reads hres hin, if_neg notId]

end Sys2Proof.Machine
end
